-- ==== Sys2Proof/Word.lean ====
section
/-!
DEFINITION. The widths of the block's values (00_scope R4, R7): bytes, raw sensor codes, result
registers, STATUS and operation words. All are unsigned bit strings, bit 0 least significant;
the result registers are read as two's complement where the rules say `s32`.
-/

namespace Sys2Proof

/-- `u8`: a data byte, a checksum, the CRC register (R4 CRC_WIDTH, R7). -/
abbrev Byte := BitVec 8

/-- `u16`: a raw sensor code "S" (R4 RAW_WIDTH). -/
abbrev Code := BitVec 16

/-- The 16-bit STATUS register and the port that shows it (R15). -/
abbrev StatusWord := BitVec 16

/-- `s32`: a result register, two's complement (R4 RESULT_WIDTH, R18, R19). -/
abbrev Result := BitVec 32

/-- `u64`: an operation word (R4 OPWORD_WIDTH, R40). -/
abbrev OpWord := BitVec 64

end Sys2Proof
end

