-- ==== Sys2Proof/Syntax.lean ====
section
/-!
DEFINITION. The block's operations (30_encoding R43), one constructor of `Instr` per row of the
opcode table, with their operand fields as the formats of R41 give them; and the lines of the
assembler's language (R49, R50), whose operands are integers that need not fit their fields.
-/

namespace Sys2Proof

/-- The ten operations of R43. A byte field is a `u8`, the S-format field a `u16` (R41, R42), so every
term of this type is an operation with operands in range. -/
inductive Instr where
  /-- NOP, format N (R82). -/
  | nop
  /-- CRC.INIT, format N (R59). -/
  | crcInit
  /-- CRC.BYTE, format B: `b` the next data byte (R60). -/
  | crcByte (b : Byte)
  /-- CRC.CHK, format B: `c` the expected checksum (R61). -/
  | crcChk (c : Byte)
  /-- CRC.PAIR, format P2 (R62). -/
  | crcPair (d0 d1 : Byte)
  /-- CRC.VFY, format P3: a pair and its checksum byte (R63). -/
  | crcVfy (d0 d1 c : Byte)
  /-- CVT.T, format S: a raw temperature code (R72). -/
  | cvtT (code : Code)
  /-- CVT.RH, format S: a raw humidity code (R73). -/
  | cvtRh (code : Code)
  /-- FRM.MEAS, format F6: `[T_msb, T_lsb, T_crc, RH_msb, RH_lsb, RH_crc]` (R77). -/
  | frmMeas (f0 f1 f2 f3 f4 f5 : Byte)
  /-- FRM.ID, format P3: `[id_msb, id_lsb, id_crc]` (R78). -/
  | frmId (i0 i1 c : Byte)
  deriving DecidableEq, Repr

/-- The ten defined opcodes by name (R43). -/
inductive Opcode where
  | nop | crcInit | crcByte | crcChk | crcPair | crcVfy | cvtT | cvtRh | frmMeas | frmId
  deriving DecidableEq, Repr

/-- The six payload formats of R41. -/
inductive Format where
  | n | b | p2 | p3 | s | f6
  deriving DecidableEq, Repr

/-- The two causes of an illegal operation word (R46, R87). -/
inductive IllegalCause where
  /-- Code 1: the opcode is not one of the ten. -/
  | illOpc
  /-- Code 2: the opcode is defined and a reserved bit of its format is 1. -/
  | illRsv
  deriving DecidableEq, Repr

/-- One line of the assembler's language: the ten operations and `.word64` (R49) and the three
pseudo-instructions (R50). Operands are integers as written; WellFormed.lean says which fit. -/
inductive AsmLine where
  | nop
  | crcInit
  | crcByte (b : Nat)
  | crcChk (c : Nat)
  | crcPair (d0 d1 : Nat)
  | crcVfy (d0 d1 c : Nat)
  | cvtT (code : Nat)
  | cvtRh (code : Nat)
  | frmMeas (f0 f1 f2 f3 f4 f5 : Nat)
  | frmId (i0 i1 c : Nat)
  | word64 (w : Nat)
  | crcSeq (bytes : List Nat)
  | crcVerify (c : Nat) (bytes : List Nat)
  | cvtBoth (tCode rhCode : Nat)
  deriving DecidableEq, Repr

/-- The opcode of an operation. -/
def Instr.opcode : Instr → Opcode
  | .nop => .nop
  | .crcInit => .crcInit
  | .crcByte _ => .crcByte
  | .crcChk _ => .crcChk
  | .crcPair _ _ => .crcPair
  | .crcVfy _ _ _ => .crcVfy
  | .cvtT _ => .cvtT
  | .cvtRh _ => .cvtRh
  | .frmMeas _ _ _ _ _ _ => .frmMeas
  | .frmId _ _ _ => .frmId

end Sys2Proof
end

