-- ==== Sys2Proof/Decode.lean ====
section
/-!
DEFINITION. The operation-word encoding (30_encoding R40 to R48): the opcode map, the reserved masks,
the decoder (total: every one of the 2^64 words is an operation or illegal with one cause) and the
encoder, written from the table of R49.
-/

namespace Sys2Proof

/-- `opc`, op[63:56] (R40). -/
def opcodeField (w : OpWord) : Byte := w.extractLsb' 56 8

/-- The opcode map of R43: opcode byte, operation, format. -/
def opcodeMap : List (Byte × Opcode × Format) :=
  [ (0x00#8, .nop, .n),
    (0x01#8, .crcInit, .n),
    (0x02#8, .crcByte, .b),
    (0x03#8, .crcChk, .b),
    (0x04#8, .crcPair, .p2),
    (0x05#8, .crcVfy, .p3),
    (0x08#8, .cvtT, .s),
    (0x09#8, .cvtRh, .s),
    (0x0C#8, .frmMeas, .f6),
    (0x0D#8, .frmId, .p3) ]

/-- RSV(f): the bits that must be 0 in format `f`, op[55:48] among them (R44). -/
def reservedMask : Format → OpWord
  | .n => 0x00FFFFFFFFFFFFFF#64
  | .b => 0x00FFFFFFFFFFFF00#64
  | .p2 => 0x00FFFFFFFFFF0000#64
  | .p3 => 0x00FFFFFFFF000000#64
  | .s => 0x00FFFFFFFFFF0000#64
  | .f6 => 0x00FF000000000000#64

/-- The byte field of `w` whose least significant bit is bit `lo` (R41). -/
def byteField (w : OpWord) (lo : Nat) : Byte := w.extractLsb' lo 8

/-- The S-format field, op[15:0] (R41, R42). -/
def codeField (w : OpWord) : Code := w.extractLsb' 0 16

/-- The operation with opcode `o` whose operand fields are those of `w` (R41, R43). -/
def readOperands (o : Opcode) (w : OpWord) : Instr :=
  match o with
  | .nop => .nop
  | .crcInit => .crcInit
  | .crcByte => .crcByte (byteField w 0)
  | .crcChk => .crcChk (byteField w 0)
  | .crcPair => .crcPair (byteField w 8) (byteField w 0)
  | .crcVfy => .crcVfy (byteField w 16) (byteField w 8) (byteField w 0)
  | .cvtT => .cvtT (codeField w)
  | .cvtRh => .cvtRh (codeField w)
  | .frmMeas =>
    .frmMeas (byteField w 40) (byteField w 32) (byteField w 24)
      (byteField w 16) (byteField w 8) (byteField w 0)
  | .frmId => .frmId (byteField w 16) (byteField w 8) (byteField w 0)

/-- The decode procedure of R45: the opcode first, then the reserved bits of its format. -/
def decode (w : OpWord) : Except IllegalCause Instr :=
  match opcodeMap.lookup (opcodeField w) with
  | none => .error .illOpc
  | some (o, f) =>
    if w &&& reservedMask f = 0#64 then .ok (readOperands o w) else .error .illRsv

/-- The decoder on a word numbered as spec/opcode_table.json numbers it. An operation word is one
64-bit word and the table gives every row all 64 bits, so bit `i` of `w` is op[i]; bits at and above
`nbits` are 0 (R40, R48; log 18). -/
def decodeTableWord (nbits w : Nat) : Option Instr :=
  match decode (BitVec.ofNat 64 (w % 2 ^ nbits)) with
  | .ok i => some i
  | .error _ => none

/-- The opcode byte of an operation, as the encoder's table R49 gives it. -/
def Opcode.byte : Opcode → Byte
  | .nop => 0x00#8
  | .crcInit => 0x01#8
  | .crcByte => 0x02#8
  | .crcChk => 0x03#8
  | .crcPair => 0x04#8
  | .crcVfy => 0x05#8
  | .cvtT => 0x08#8
  | .cvtRh => 0x09#8
  | .frmMeas => 0x0C#8
  | .frmId => 0x0D#8

/-- The format an operation is written in (R41). -/
def Opcode.format : Opcode → Format
  | .nop | .crcInit => .n
  | .crcByte | .crcChk => .b
  | .crcPair => .p2
  | .crcVfy | .frmId => .p3
  | .cvtT | .cvtRh => .s
  | .frmMeas => .f6

/-- A byte moved up to the field whose least significant bit is bit `lo`. -/
def placeByte (v : Byte) (lo : Nat) : OpWord := v.setWidth 64 <<< lo

/-- The payload of an operation, op[47:0], from the table of R49. -/
def encodePayload : Instr → OpWord
  | .nop => 0#64
  | .crcInit => 0#64
  | .crcByte b => placeByte b 0
  | .crcChk c => placeByte c 0
  | .crcPair d0 d1 => placeByte d0 8 ||| placeByte d1 0
  | .crcVfy d0 d1 c => placeByte d0 16 ||| placeByte d1 8 ||| placeByte c 0
  | .cvtT code => code.setWidth 64
  | .cvtRh code => code.setWidth 64
  | .frmMeas f0 f1 f2 f3 f4 f5 =>
    placeByte f0 40 ||| placeByte f1 32 ||| placeByte f2 24 |||
      placeByte f3 16 ||| placeByte f4 8 ||| placeByte f5 0
  | .frmId i0 i1 c => placeByte i0 16 ||| placeByte i1 8 ||| placeByte c 0

/-- The word of an operation (R49). -/
def encode (i : Instr) : OpWord := placeByte i.opcode.byte 56 ||| encodePayload i

end Sys2Proof
end

