-- ==== Sys2Proof/Machine/Constants.lean ====
section
/-!
DEFINITION. The fixed constants of the block (00_scope R4, 10_state R23). They are not state: no
operation changes them.
-/

namespace Sys2Proof.Machine

/-- CRC_POLY: x^8 + x^5 + x^4 + 1, the x^8 term implicit (R4). -/
def crcPoly : Byte := 0x31#8

/-- CRC_INIT (R4). -/
def crcInit : Byte := 0xFF#8

/-- T_MUL (R4, R68). -/
def tMul : Nat := 21875

/-- T_SHIFT (R4, R68). -/
def tShift : Nat := 13

/-- T_OFFSET (R4, R68). -/
def tOffset : Nat := 45000

/-- RH_MUL (R4, R68). -/
def rhMul : Nat := 12500

/-- RH_SHIFT (R4, R68). -/
def rhShift : Nat := 13

/-- ID_SIG_MASK: the low 5 bits of the second identification byte (R4, R53). -/
def idSigMask : Byte := 0x1F#8

/-- ID_SIG_VALUE (R4, R53). -/
def idSigValue : Byte := 0x07#8

end Sys2Proof.Machine
end

