-- ==== Sys2Proof/Machine/State.lean ====
section
/-!
DEFINITION. The machine's state (10_state R11, R22), the host's moves as data, the reasons a reading
can fault, and the state after reset (R24).
-/

namespace Sys2Proof.Machine

/-- What the host does to the block in one step (R32, R97). -/
inductive HostMove where
  /-- The values the host drives on the input ports `rst`, `op_valid` and `op_word` (R32). -/
  | drive (rst opValid : Bool) (opWord : OpWord)
  /-- Power comes on after it was lost or for the first time, and leaves these values in CRC, STATUS,
  TEMP and RH: the draw of POWERON_STATE (R108, R111; log 7). -/
  | powerUp (crc : Byte) (status : StatusWord) (temp rh : Result)
  deriving DecidableEq, Repr

/-- The state: the registers of R11, the operation in flight of R22, and the host's moves to come. -/
structure State where
  /-- CRC (R14). -/
  crc : Byte
  /-- STATUS, as stored; readers go through `statusRegister` (R15, R16). -/
  status : StatusWord
  /-- TEMP (R18); it holds a defined value only while T_VALID = 1 (R20). -/
  temp : Result
  /-- RH (R19); it holds a defined value only while RH_VALID = 1 (R20). -/
  rh : Result
  /-- The operation word captured at acceptance and not yet completed; `busy` is whether there is one
  (R22, R32, R38; log 3). -/
  inFlight : Option OpWord
  /-- The model's own: the host's moves to come, oldest first (log 2). -/
  host : List HostMove
  deriving DecidableEq, Repr

/-- Why the model stops a claim's reading. No step and no port of the block answers a fault (R103). -/
inductive Fault where
  /-- Answered by `claimTemp` alone, when a claim takes TEMP as a number while T_VALID = 0: "A read of it is
  a fault of the reading claim, never a number" (R20, 93 I2; log 5). Safe. -/
  | unwrittenTemp
  /-- Answered by `claimRh` alone, when a claim takes RH as a number while RH_VALID = 0 (R20, 93 I2; log 5).
  Safe. -/
  | unwrittenRh
  deriving DecidableEq, Repr

/-- Why the model gives no meaning. -/
inductive Refusal where
  /-- An operation of the table without a meaning in the model. No arm of `exec` answers it: all ten
  operations have their meaning. Safe. -/
  | notModelled (mnemonic : String)
  deriving DecidableEq, Repr

/-- The state right after reset (R24, R109). TEMP and RH are unspecified there; the zeros are the
model's named values, which no reading shows while the valid bits are 0 (logs 4, 5). The host has not
moved yet (log 2). -/
def State.reset : State where
  crc := 0xFF#8
  status := 0x0000#16
  temp := 0#32
  rh := 0#32
  inFlight := none
  host := []

end Sys2Proof.Machine
end

