-- ==== Sys2Proof/Machine/Operands.lean ====
section
/-!
DEFINITION. The operand forms: assembly of a raw code from two bytes (20_memory R27), the half-frame,
measurement frame and identification frame (R28, R76), and how their bytes are packed into an
operation's payload (R29).
-/

namespace Sys2Proof.Machine

/-- `be16(hi, lo) = hi ++ lo`, the first byte on the wire high (R27). -/
def be16 (hi lo : Byte) : Code := hi ++ lo

/-- A half-frame `[msb, lsb, crc]` (R9, R76). -/
structure HalfFrame where
  msb : Byte
  lsb : Byte
  crc : Byte
  deriving DecidableEq, Repr

/-- A RawFrame in wire order (R28). -/
structure RawFrame where
  tMsb : Byte
  tLsb : Byte
  tCrc : Byte
  rhMsb : Byte
  rhLsb : Byte
  rhCrc : Byte
  deriving DecidableEq, Repr

/-- An IdentificationFrame in wire order (R28). -/
structure IdFrame where
  idMsb : Byte
  idLsb : Byte
  idCrc : Byte
  deriving DecidableEq, Repr

/-- The two bytes a half-frame's checksum covers, in wire order (R28). -/
def HalfFrame.pair (h : HalfFrame) : List Byte := [h.msb, h.lsb]

/-- The raw code a half-frame carries (R27, R77). -/
def HalfFrame.code (h : HalfFrame) : Code := be16 h.msb h.lsb

/-- The temperature half of a measurement frame (R28). -/
def RawFrame.tHalf (f : RawFrame) : HalfFrame := ⟨f.tMsb, f.tLsb, f.tCrc⟩

/-- The humidity half of a measurement frame (R28). -/
def RawFrame.rhHalf (f : RawFrame) : HalfFrame := ⟨f.rhMsb, f.rhLsb, f.rhCrc⟩

/-- The identification frame as the triple its checksum is checked over (R28, R78). -/
def IdFrame.half (f : IdFrame) : HalfFrame := ⟨f.idMsb, f.idLsb, f.idCrc⟩

/-- FRM.MEAS with this frame for its operands (R41, R77). -/
def RawFrame.operation (f : RawFrame) : Instr :=
  .frmMeas f.tMsb f.tLsb f.tCrc f.rhMsb f.rhLsb f.rhCrc

/-- FRM.ID with this frame for its operands (R41, R78). -/
def IdFrame.operation (f : IdFrame) : Instr := .frmId f.idMsb f.idLsb f.idCrc

/-- The RawFrame packed into op[47:0]: `f0 ++ f1 ++ f2 ++ f3 ++ f4 ++ f5` (R29). -/
def RawFrame.payload (f : RawFrame) : BitVec 48 :=
  f.tMsb ++ f.tLsb ++ f.tCrc ++ f.rhMsb ++ f.rhLsb ++ f.rhCrc

/-- A triple packed into op[23:0] (R29). -/
def HalfFrame.payload (h : HalfFrame) : BitVec 24 := h.msb ++ h.lsb ++ h.crc

end Sys2Proof.Machine
end

