-- ==== Sys2Proof/Machine/Checksum.lean ====
section
/-!
DEFINITION. The CRC-8 as pure functions (40_crc R55 to R58) and the checks built on it: the half-frame
check (42_frame R76) and the identification signature (30_encoding R53).
-/

namespace Sys2Proof.Machine

/-- One shift step: shift left, and XOR the polynomial if the top bit was set (R55). -/
def crc8Step (r : Byte) : Byte := if r.getLsbD 7 then (r <<< 1) ^^^ crcPoly else r <<< 1

/-- `n` shift steps. -/
def crc8Steps : Nat → Byte → Byte
  | 0, r => r
  | n + 1, r => crc8Steps n (crc8Step r)

/-- One byte: XOR it into the register, then eight shift steps (R56). -/
def crc8Update (r b : Byte) : Byte := crc8Steps 8 (r ^^^ b)

/-- The CRC of a byte sequence in wire order, from the initial value, no final XOR (R57). -/
def crc8 (data : List Byte) : Byte := data.foldl crc8Update crcInit

/-- `verify(data, expected)` (R58, 90 C2). -/
def verify (data : List Byte) (expected : Byte) : Bool := crc8 data == expected

/-- The half-frame check: the pair's CRC equals the trailing byte (R76). -/
def HalfFrame.passes (h : HalfFrame) : Bool := verify h.pair h.crc

/-- `sig_ok(id_lsb)`: the low 5 bits equal 0x07 (R53). -/
def sigOk (idLsb : Byte) : Bool := (idLsb &&& idSigMask) == idSigValue

end Sys2Proof.Machine
end

