-- ==== Sys2Proof/Machine/Flags.lean ====
section
/-!
DEFINITION. The bits of STATUS (10_state R15), how one is read and written, and the reserved bits
15:12, which always read 0 (R16).
-/

namespace Sys2Proof.Machine

/-- The twelve named bits of STATUS (R15). -/
inductive Flag where
  | crcOk | tOk | rhOk | frameOk | badData | idCrcOk | sigOk | present | tValid | rhValid | illOpc | illRsv
  deriving DecidableEq, Repr

/-- The bit number of a flag (R15). -/
def Flag.bit : Flag → Nat
  | .crcOk => 0
  | .tOk => 1
  | .rhOk => 2
  | .frameOk => 3
  | .badData => 4
  | .idCrcOk => 5
  | .sigOk => 6
  | .present => 7
  | .tValid => 8
  | .rhValid => 9
  | .illOpc => 10
  | .illRsv => 11

/-- The bits of STATUS that have a name; 15:12 are reserved (R15, R16). -/
def statusNamedMask : StatusWord := 0x0FFF#16

/-- The word with only the bit of `f` set. -/
def flagMask (f : Flag) : StatusWord := 1#16 <<< f.bit

/-- The value of a flag in a STATUS word. -/
def getFlag (w : StatusWord) (f : Flag) : Bool := w.getLsbD f.bit

/-- The STATUS word with flag `f` made `b` and every other bit kept (R17). -/
def putFlag (f : Flag) (b : Bool) (w : StatusWord) : StatusWord :=
  if b then w ||| flagMask f else w &&& ~~~flagMask f

/-- The value of a flag of the machine's STATUS. -/
def State.flag (s : State) (f : Flag) : Bool := getFlag s.status f

/-- STATUS as it reads: the reserved bits 15:12 read 0 (R16). -/
def statusRegister (s : State) : StatusWord := s.status &&& statusNamedMask

end Sys2Proof.Machine
end

