-- ==== Sys2Proof/Machine/Scaler.lean ====
section
/-!
DEFINITION. The fixed-point conversions as pure functions (41_convert R67 to R71): exact integers, the
product shifted right before the subtraction (90 C1), then encoded as `s32`.
-/

namespace Sys2Proof.Machine

/-- `conv_t(S) = ((21875 * S) >> 13) - 45000`, in milli-degrees Celsius (R67, R71). -/
def convT (code : Code) : Int := (((tMul * code.toNat) >>> tShift : Nat) : Int) - (tOffset : Int)

/-- `conv_rh(S) = (12500 * S) >> 13`, in milli-percent (R69, R71). -/
def convRh (code : Code) : Int := (((rhMul * code.toNat) >>> rhShift : Nat) : Int)

/-- `s32(v)`: the 32-bit two's-complement encoding of an integer (R7, R70). -/
def s32 (v : Int) : Result := BitVec.ofInt 32 v

end Sys2Proof.Machine
end

