-- ==== Sys2Proof/Machine/Ops.lean ====
section
/-!
DEFINITION. The named operations on the state: writing a register, taking an illegal operation
(60_exceptions R88), reset (70 R109), power-up (R111), and the host's side of a transaction. There is
no memory (20_memory R25) and no return from an exception (60 R91: nothing is entered, so the next
operation simply runs).
-/

namespace Sys2Proof.Machine

/-- CRC <- v (R14). -/
def writeCrc (v : Byte) (s : State) : State := { s with crc := v }

/-- STATUS.f <- b; every other bit keeps its value (R15, R17). -/
def setFlag (f : Flag) (b : Bool) (s : State) : State := { s with status := putFlag f b s.status }

/-- TEMP <- v, and T_VALID <- 1 with it: "Every write sets T_VALID" (R18). -/
def writeTemp (v : Result) (s : State) : State := setFlag .tValid true { s with temp := v }

/-- RH <- v, and RH_VALID <- 1 with it: "Every write sets RH_VALID" (R19). -/
def writeRh (v : Result) (s : State) : State := setFlag .rhValid true { s with rh := v }

/-- The verdicts on the two halves of a measurement frame: T_OK, RH_OK, FRAME_OK and BAD_DATA (R77). -/
def setFrameVerdict (tOk rhOk : Bool) (s : State) : State :=
  setFlag .badData (!(tOk && rhOk)) (setFlag .frameOk (tOk && rhOk) (setFlag .rhOk rhOk (setFlag .tOk tOk s)))

/-- The verdicts on an identification frame: ID_CRC_OK, SIG_OK and PRESENT (R78). -/
def setIdVerdict (idCrcOk sig : Bool) (s : State) : State :=
  setFlag .present (idCrcOk && sig) (setFlag .sigOk sig (setFlag .idCrcOk idCrcOk s))

/-- The code of a cause (R87). -/
def causeCode : IllegalCause → Nat
  | .illOpc => 1
  | .illRsv => 2

/-- The STATUS bit that records a cause (R87). -/
def causeFlag : IllegalCause → Flag
  | .illOpc => .illOpc
  | .illRsv => .illRsv

/-- TAKING AN EXCEPTION, the illegal-operation outcome: the cause's sticky bit is set, the word is
discarded and nothing else changes; no handler, no vector, no mode (R88, R90). -/
def takeIllegalOp (cause : IllegalCause) (s : State) : State :=
  setFlag (causeFlag cause) true s

/-- The reset step: every piece of the block's state takes its reset value, an operation in flight is
abandoned, and the host goes on with its remaining moves (R109, R112; log 16). -/
def resetBlock (s : State) : State := { State.reset with host := s.host }

/-- Power comes on with the values drawn: CRC, STATUS, TEMP and RH may hold anything, the reserved bits
of STATUS read 0, nothing is in flight (R108, R111, R16, R22; log 7). -/
def powerUpBlock (crc : Byte) (status : StatusWord) (temp rh : Result) (s : State) : State :=
  { s with crc := crc, status := status &&& statusNamedMask, temp := temp, rh := rh, inFlight := none }

/-- `busy`: an operation is accepted and not completed (R22). -/
def State.busy (s : State) : Bool := s.inFlight.isSome

/-- Acceptance: the block captures all 64 bits of `op_word` at once (R32, R38). -/
def acceptWord (w : OpWord) (s : State) : State := { s with inFlight := some w }

/-- Completion: nothing is in flight any more (R22). -/
def clearInFlight (s : State) : State := { s with inFlight := none }

/-- The host's moves that remain are `moves`. -/
def setHost (moves : List HostMove) (s : State) : State := { s with host := moves }

/-- The host offers an operation word and does not assert `rst` (R32, R97). -/
def offer (w : OpWord) : HostMove := .drive false true w

/-- The host asserts `rst` and offers nothing (R109). -/
def assertReset : HostMove := .drive true false 0#64

/-- The state in which the host is about to issue these words, in order (R35, R120; log 1). -/
def issueWords (ws : List OpWord) (s : State) : State := setHost (ws.map offer) s

end Sys2Proof.Machine
end

