-- ==== Sys2Proof/Machine/Convert.lean ====
section
/-!
DEFINITION. The two conversion operations (41_convert R72, R73). Every code is converted by the formula:
no check, clamp or saturation (R75).
-/

namespace Sys2Proof.Machine

/-- CVT.T: TEMP <- s32(conv_t(s)); T_VALID <- 1 (R72). -/
def execCvtT (code : Code) (s : State) : Host.Outcome State Fault Refusal :=
  .next (writeTemp (s32 (convT code)) s)

/-- CVT.RH: RH <- s32(conv_rh(s)); RH_VALID <- 1 (R73). -/
def execCvtRh (code : Code) (s : State) : Host.Outcome State Fault Refusal :=
  .next (writeRh (s32 (convRh code)) s)

end Sys2Proof.Machine
end

