-- ==== Sys2Proof/Machine/Crc.lean ====
section
/-!
DEFINITION. The five CRC operations (40_crc R59 to R63).
-/

namespace Sys2Proof.Machine

/-- CRC.INIT: CRC <- 0xFF; STATUS, CRC_OK included, is unchanged (R59). -/
def execCrcInit (s : State) : Host.Outcome State Fault Refusal := .next (writeCrc crcInit s)

/-- CRC.BYTE: CRC <- crc8_update(CRC, b) (R60). -/
def execCrcByte (b : Byte) (s : State) : Host.Outcome State Fault Refusal :=
  .next (writeCrc (crc8Update s.crc b) s)

/-- CRC.CHK: CRC_OK <- (CRC == c) (R61). -/
def execCrcChk (c : Byte) (s : State) : Host.Outcome State Fault Refusal :=
  .next (setFlag .crcOk (s.crc == c) s)

/-- CRC.PAIR: CRC <- crc8([d0, d1]), from 0xFF whatever CRC held (R62). -/
def execCrcPair (d0 d1 : Byte) (s : State) : Host.Outcome State Fault Refusal :=
  .next (writeCrc (crc8 [d0, d1]) s)

/-- CRC.VFY: CRC <- crc8([d0, d1]), matching or not; CRC_OK <- verify([d0, d1], c) (R63). -/
def execCrcVfy (d0 d1 c : Byte) (s : State) : Host.Outcome State Fault Refusal :=
  .next (setFlag .crcOk (verify [d0, d1] c) (writeCrc (crc8 [d0, d1]) s))

end Sys2Proof.Machine
end

