-- ==== Sys2Proof/Machine/Frame.lean ====
section
/-!
DEFINITION. The two frame operations (42_frame R77, R78). Their checkers start from 0xFF and neither
read nor write CRC (R81).
-/

namespace Sys2Proof.Machine

/-- The results of an accepted frame: TEMP and RH from its two codes, with their valid bits (R77). -/
def writeFrameResults (f : RawFrame) (s : State) : State :=
  writeRh (s32 (convRh f.rhHalf.code)) (writeTemp (s32 (convT f.tHalf.code)) s)

/-- The effect of a measurement frame: both halves are always checked and reported, and the payload is
interpreted only if both pass (R77). -/
def checkMeasurement (f : RawFrame) (s : State) : State :=
  let judged := setFrameVerdict f.tHalf.passes f.rhHalf.passes s
  if f.tHalf.passes && f.rhHalf.passes then writeFrameResults f judged else judged

/-- The effect of an identification frame; SIG_OK is computed even when the CRC fails (R78). -/
def checkIdentification (f : IdFrame) (s : State) : State :=
  setIdVerdict f.half.passes (sigOk f.idLsb) s

/-- FRM.MEAS (R77). -/
def execFrmMeas (f0 f1 f2 f3 f4 f5 : Byte) (s : State) : Host.Outcome State Fault Refusal :=
  .next (checkMeasurement ⟨f0, f1, f2, f3, f4, f5⟩ s)

/-- FRM.ID (R78). -/
def execFrmId (i0 i1 c : Byte) (s : State) : Host.Outcome State Fault Refusal :=
  .next (checkIdentification ⟨i0, i1, c⟩ s)

end Sys2Proof.Machine
end

