-- ==== Sys2Proof/Machine/System.lean ====
section
/-!
DEFINITION. The system operation: NOP (43_system R82).
-/

namespace Sys2Proof.Machine

/-- NOP: no state changes (R82). -/
def execNop (s : State) : Host.Outcome State Fault Refusal := .next s

end Sys2Proof.Machine
end

