-- ==== Sys2Proof/Machine/Dispatch.lean ====
section
/-! DEFINITION. exec: one arm per operation of the opcode table (30_encoding R43), each one call of its meaning. -/

namespace Sys2Proof.Machine

def exec (i : Instr) (s : State) : Host.Outcome State Fault Refusal :=
  match i with
  | .nop => Sys2Proof.Machine.execNop s
  | .crcInit => Sys2Proof.Machine.execCrcInit s
  | .crcByte b => Sys2Proof.Machine.execCrcByte b s
  | .crcChk c => Sys2Proof.Machine.execCrcChk c s
  | .crcPair d0 d1 => Sys2Proof.Machine.execCrcPair d0 d1 s
  | .crcVfy d0 d1 c => Sys2Proof.Machine.execCrcVfy d0 d1 c s
  | .cvtT code => Sys2Proof.Machine.execCvtT code s
  | .cvtRh code => Sys2Proof.Machine.execCvtRh code s
  | .frmMeas f0 f1 f2 f3 f4 f5 => Sys2Proof.Machine.execFrmMeas f0 f1 f2 f3 f4 f5 s
  | .frmId i0 i1 c => Sys2Proof.Machine.execFrmId i0 i1 c s

end Sys2Proof.Machine
end

