-- ==== Sys2Proof/Machine/Transaction.lean ====
section
/-!
DEFINITION. One transaction of the port interface (20_memory R32, 10_state R22, 70 R109 to R114): what
the block does with the host's next move, and how a sequence of operations runs (R35).
-/

namespace Sys2Proof.Machine

/-- The effect of an operation word: decode it, and run the operation or take the illegal-operation
outcome (R45, R88). -/
def execWord (w : OpWord) (s : State) : Host.Outcome State Fault Refusal :=
  match decode w with
  | .ok i => exec i s
  | .error cause => .next (takeIllegalOp cause s)

/-- Complete the operation in flight, if there is one; without one the block is idle and keeps all its
state (R22, R103, R108). -/
def completeInFlight (s : State) : Host.Outcome State Fault Refusal :=
  match s.inFlight with
  | none => .next s
  | some w => execWord w (clearInFlight s)

/-- One atomic operation: acceptance and completion in one step (R22, R32). -/
def runWord (w : OpWord) (s : State) : Host.Outcome State Fault Refusal :=
  completeInFlight (acceptWord w s)

/-- The block with the port values `rst`, `op_valid`, `op_word` of one step, `rest` the host's moves after
it. `rst` wins over everything (R109, R112). While the block is busy the host holds what it offers, and
the operation in flight completes (R114). When it is ready, a valid word is accepted and runs (R32), and
without one the block stays idle (R108). -/
def driven (rst opValid : Bool) (opWord : OpWord) (rest : List HostMove) (s : State) :
    Host.Outcome State Fault Refusal :=
  if rst then .next (resetBlock (setHost rest s))
  else if s.busy then completeInFlight s
  else if opValid then runWord opWord (setHost rest s)
  else .next (setHost rest s)

/-- One step of the block with the host's next move; with no move left the host is silent. -/
def transact (s : State) : Host.Outcome State Fault Refusal :=
  match s.host with
  | [] => completeInFlight s
  | .powerUp crc status temp rh :: rest => .next (powerUpBlock crc status temp rh (setHost rest s))
  | .drive rst opValid opWord :: rest => driven rst opValid opWord rest s

/-- The state in which the very next step accepts and runs the word `w`: the host offers it before its
other moves, and nothing is in flight (log 1). -/
def withOffer (w : OpWord) (s : State) : State := clearInFlight (setHost (offer w :: s.host) s)

/-- A sequence of operations, each reading the state the one before it left (R35). -/
def execAll : List Instr → State → Host.Outcome State Fault Refusal
  | [], s => .next s
  | i :: is, s =>
    match exec i s with
    | .next t => execAll is t
    | .fault r => .fault r
    | .refused r => .refused r

/-- A sequence of operation words, legal or not (R35, R120). -/
def execWords : List OpWord → State → Host.Outcome State Fault Refusal
  | [], s => .next s
  | w :: ws, s =>
    match execWord w s with
    | .next t => execWords ws t
    | .fault r => .fault r
    | .refused r => .refused r

end Sys2Proof.Machine
end

