-- ==== Sys2Proof/Machine/Step.lean ====
section
/-!
DEFINITION. The step of the machine and the placing of the next operation word.
-/

namespace Sys2Proof.Machine

/-- One step: the block with the host's next move (10_state R10). -/
def step (s : State) : Host.Outcome State Fault Refusal := transact s

/-- The state whose next step runs the operation with these bits (bits at and above `nbits` are 0). The
block fetches nothing: the host issues the word (R12, R38; logs 1, 18). -/
def State.withFetchWord (s : State) (nbits w : Nat) : State :=
  withOffer (BitVec.ofNat 64 (w % 2 ^ nbits)) s

end Sys2Proof.Machine
end

