-- ==== Sys2Proof/WellFormed.lean ====
section
/-!
DEFINITION. Which lines of the assembler's language are well formed (30_encoding R49): "A byte operand
is an integer 0 to 255 and a code operand `s` is 0 to 65535 ... Any other operand is an assembly
error, never a truncation"; `.word64` takes a `u64`. An `Instr` carries its operands in fields of
exactly these widths, so every `Instr` is well formed by its type.
-/

namespace Sys2Proof

/-- A byte operand: 0 to 255 (R49). -/
def byteFits (n : Nat) : Bool := decide (n < 2 ^ 8)

/-- A code operand: 0 to 65535 (R49). -/
def codeFits (n : Nat) : Bool := decide (n < 2 ^ 16)

/-- A raw word of `.word64`: a `u64` (R49). -/
def wordFits (n : Nat) : Bool := decide (n < 2 ^ 64)

/-- The line has no operand out of range (R49, R50). -/
def AsmLine.wellFormed : AsmLine → Bool
  | .nop => true
  | .crcInit => true
  | .crcByte b => byteFits b
  | .crcChk c => byteFits c
  | .crcPair d0 d1 => byteFits d0 && byteFits d1
  | .crcVfy d0 d1 c => byteFits d0 && byteFits d1 && byteFits c
  | .cvtT code => codeFits code
  | .cvtRh code => codeFits code
  | .frmMeas f0 f1 f2 f3 f4 f5 =>
    byteFits f0 && byteFits f1 && byteFits f2 && byteFits f3 && byteFits f4 && byteFits f5
  | .frmId i0 i1 c => byteFits i0 && byteFits i1 && byteFits c
  | .word64 w => wordFits w
  | .crcSeq bytes => bytes.all byteFits
  | .crcVerify c bytes => byteFits c && bytes.all byteFits
  | .cvtBoth tCode rhCode => codeFits tCode && codeFits rhCode

end Sys2Proof
end

