-- ==== Sys2Proof/Machine/Assembler.lean ====
section
/-!
DEFINITION. The assembler (30_encoding R49, R50): a line of text to an `AsmLine`, an `AsmLine` to operation
words. An operand out of range is an error, never a truncation. Pseudo-instructions expand here; the
block only ever sees the expanded words (92 D29).
-/

namespace Sys2Proof.Machine

/-- The operations a line stands for, in order (R49, R50); `.word64` is a raw word and no operation. The
operands are taken as fitting their fields (`AsmLine.wellFormed`). -/
def expandLine : AsmLine → List Instr
  | .nop => [.nop]
  | .crcInit => [.crcInit]
  | .crcByte b => [.crcByte (BitVec.ofNat 8 b)]
  | .crcChk c => [.crcChk (BitVec.ofNat 8 c)]
  | .crcPair d0 d1 => [.crcPair (BitVec.ofNat 8 d0) (BitVec.ofNat 8 d1)]
  | .crcVfy d0 d1 c => [.crcVfy (BitVec.ofNat 8 d0) (BitVec.ofNat 8 d1) (BitVec.ofNat 8 c)]
  | .cvtT code => [.cvtT (BitVec.ofNat 16 code)]
  | .cvtRh code => [.cvtRh (BitVec.ofNat 16 code)]
  | .frmMeas f0 f1 f2 f3 f4 f5 =>
    [.frmMeas (BitVec.ofNat 8 f0) (BitVec.ofNat 8 f1) (BitVec.ofNat 8 f2)
      (BitVec.ofNat 8 f3) (BitVec.ofNat 8 f4) (BitVec.ofNat 8 f5)]
  | .frmId i0 i1 c => [.frmId (BitVec.ofNat 8 i0) (BitVec.ofNat 8 i1) (BitVec.ofNat 8 c)]
  | .word64 _ => []
  | .crcSeq bytes => .crcInit :: bytes.map (fun b => .crcByte (BitVec.ofNat 8 b))
  | .crcVerify c bytes =>
    .crcInit :: bytes.map (fun b => .crcByte (BitVec.ofNat 8 b)) ++ [.crcChk (BitVec.ofNat 8 c)]
  | .cvtBoth tCode rhCode => [.cvtT (BitVec.ofNat 16 tCode), .cvtRh (BitVec.ofNat 16 rhCode)]

/-- The words a well-formed line assembles to; nothing for a line with an operand out of range (R49). -/
def assembleLine (line : AsmLine) : Option (List OpWord) :=
  if line.wellFormed then
    match line with
    | .word64 w => some [BitVec.ofNat 64 w]
    | other => some ((expandLine other).map encode)
  else none

/-- The words of a program's lines in order; nothing if a line is in error. -/
def assembleLines : List AsmLine → Option (List OpWord)
  | [] => some []
  | l :: ls =>
    match assembleLine l, assembleLines ls with
    | some ws, some rest => some (ws ++ rest)
    | _, _ => none

/-- A blank between tokens: space or tab (log 15). -/
def isBlank (c : Char) : Bool := c == ' ' || c == '\t'

/-- The text without blanks at either end. -/
def trimBlanks (cs : List Char) : List Char :=
  ((cs.dropWhile isBlank).reverse.dropWhile isBlank).reverse

/-- The value of a decimal digit. -/
def decDigit (c : Char) : Option Nat :=
  if '0'.toNat ≤ c.toNat && c.toNat ≤ '9'.toNat then some (c.toNat - '0'.toNat) else none

/-- The value of a hexadecimal digit, in either case (log 15). -/
def hexDigit (c : Char) : Option Nat :=
  if 'a'.toNat ≤ c.toNat && c.toNat ≤ 'f'.toNat then some (c.toNat - 'a'.toNat + 10)
  else if 'A'.toNat ≤ c.toNat && c.toNat ≤ 'F'.toNat then some (c.toNat - 'A'.toNat + 10)
  else decDigit c

/-- The digits of a number in base `base`, added to `acc`. -/
def digits (base : Nat) (digit : Char → Option Nat) : List Char → Nat → Option Nat
  | [], acc => some acc
  | c :: cs, acc =>
    match digit c with
    | some d => digits base digit cs (acc * base + d)
    | none => none

/-- An integer operand, decimal or `0x` hexadecimal (R49). -/
def parseNumber : List Char → Option Nat
  | [] => none
  | '0' :: 'x' :: [] => none
  | '0' :: 'x' :: cs => digits 16 hexDigit cs 0
  | cs => digits 10 decDigit cs 0

/-- The text cut at its commas. -/
def splitCommas : List Char → List (List Char)
  | [] => [[]]
  | c :: cs =>
    match splitCommas cs with
    | [] => [[c]]
    | p :: ps => if c == ',' then [] :: p :: ps else (c :: p) :: ps

/-- The operands after a mnemonic, separated by commas (R49). -/
def parseOperands (cs : List Char) : Option (List Nat) :=
  match trimBlanks cs with
  | [] => some []
  | text => (splitCommas text).mapM (fun p => parseNumber (trimBlanks p))

/-- The line with this mnemonic, in lower case, and these operands (R49, R50). -/
def lineOf (mnemonic : String) (operands : List Nat) : Option AsmLine :=
  match operands with
  | [] =>
    if mnemonic == "nop" then some .nop
    else if mnemonic == "crc.init" then some .crcInit
    else if mnemonic == "crc.seq" then some (.crcSeq [])
    else none
  | [a] =>
    if mnemonic == "crc.byte" then some (.crcByte a)
    else if mnemonic == "crc.chk" then some (.crcChk a)
    else if mnemonic == "cvt.t" then some (.cvtT a)
    else if mnemonic == "cvt.rh" then some (.cvtRh a)
    else if mnemonic == ".word64" then some (.word64 a)
    else if mnemonic == "crc.seq" then some (.crcSeq [a])
    else if mnemonic == "crc.verify" then some (.crcVerify a [])
    else none
  | [a, b] =>
    if mnemonic == "crc.pair" then some (.crcPair a b)
    else if mnemonic == "cvt.both" then some (.cvtBoth a b)
    else if mnemonic == "crc.seq" then some (.crcSeq [a, b])
    else if mnemonic == "crc.verify" then some (.crcVerify a [b])
    else none
  | [a, b, c] =>
    if mnemonic == "crc.vfy" then some (.crcVfy a b c)
    else if mnemonic == "frm.id" then some (.frmId a b c)
    else if mnemonic == "crc.seq" then some (.crcSeq [a, b, c])
    else if mnemonic == "crc.verify" then some (.crcVerify a [b, c])
    else none
  | [a, b, c, d, e, f] =>
    if mnemonic == "frm.meas" then some (.frmMeas a b c d e f)
    else if mnemonic == "crc.seq" then some (.crcSeq [a, b, c, d, e, f])
    else if mnemonic == "crc.verify" then some (.crcVerify a [b, c, d, e, f])
    else none
  | a :: rest =>
    if mnemonic == "crc.seq" then some (.crcSeq (a :: rest))
    else if mnemonic == "crc.verify" then some (.crcVerify a rest)
    else none

/-- The words of one line of text: a comment begins at `;`, and a line with nothing else assembles to
nothing (R49; log 15). -/
def assembleText (line : String) : Option (List OpWord) :=
  match trimBlanks (line.toList.takeWhile (fun c => c != ';')) with
  | [] => some []
  | text =>
    match parseOperands (text.dropWhile (fun c => !isBlank c)) with
    | none => none
    | some operands =>
      match lineOf (String.ofList (text.takeWhile (fun c => !isBlank c))) operands with
      | none => none
      | some l => assembleLine l

/-- The words of a program, one operation a line (R49). -/
def assembleProgram : List String → Option (List OpWord)
  | [] => some []
  | l :: ls =>
    match assembleText l, assembleProgram ls with
    | some ws, some rest => some (ws ++ rest)
    | _, _ => none

end Sys2Proof.Machine
end

