-- ==== Sys2Proof/Config.lean ====
section
/-!
DEFINITION. What the spec leaves open and the model does not fix: the open parameters of R4 and the free
values, with no body, so that nothing can be proved of them. The fixed constants of R4 stand in
Machine/Constants.lean; POWERON_STATE (R111) is drawn by the host's `powerUp` move (log 7).
-/

namespace Sys2Proof

/-- What port `crc_out` shows at the host's `n`-th reading while `busy = 1`: unspecified (R21, R115,
93 I4; log 6). -/
opaque Config.busyCrcOut : Nat → Byte

/-- What port `status` shows at the host's `n`-th reading while `busy = 1` (R21, R115, 93 I4; log 6). -/
opaque Config.busyStatus : Nat → StatusWord

/-- What port `temp` shows at the host's `n`-th reading while `busy = 1` (R21, R115, 93 I4; log 6). -/
opaque Config.busyTemp : Nat → Result

/-- What port `rh` shows at the host's `n`-th reading while `busy = 1` (R21, R115, 93 I4; log 6). -/
opaque Config.busyRh : Nat → Result

/-- What port `temp` shows at the host's `n`-th reading while T_VALID = 0: "an unspecified 32-bit value, and
two reads may return different values" (R20). That it depends on `n` alone is the model's choice (DESIGN
CHOICE; log 5). -/
opaque Config.unwrittenTemp : Nat → Result

/-- What port `rh` shows at the host's `n`-th reading while RH_VALID = 0 (R20; DESIGN CHOICE; log 5). -/
opaque Config.unwrittenRh : Nat → Result

/-- The ports of the block (R32). -/
inductive Port where
  | rst | opValid | opWord | opReady | crcOut | status | temp | rh
  deriving DecidableEq, Repr

/-- HOST_MAP: the address of each port in the host's address map, or none where it sits in none (R4, R34, 93
I7). No rule depends on it, so no definition reads it (log 12). -/
opaque Config.hostMap : Port → Option Nat

/-- OP_LATENCY: the time from a word's acceptance to its completion, finite and possibly another for each
operation (R4, R119, 93 I5). No rule depends on it, so no definition reads it (log 11). -/
opaque Config.opLatency : OpWord → Nat

/-- CONV_WAIT, in milliseconds: the host's fixed conversion wait, to which the sources give no value
(R99, 93 I8, 91 N5; log 13). -/
opaque Config.convWait : Nat

end Sys2Proof
end

