-- ==== Sys2Proof/Machine/Ports.lean ====
section
/-!
DEFINITION. The output ports (20_memory R32): what the host sees of a state. While `busy = 0` they show
the registers exactly (10_state R21); while `busy = 1`, and for a result that was never written, they
show free values, one per reading (R115, log 6; R20, log 5). A reading changes nothing (R33): it is a
function of the state and of the host's own count `n` of its readings. What a CLAIM may take from a
result port is `claimTemp` and `claimRh`: an unwritten result is no number there (R20, 93 I2).
-/

namespace Sys2Proof.Machine

/-- Port `op_ready`: the block can accept an operation (R22, R32). -/
def opReady (s : State) : Bool := !s.busy

/-- Port `crc_out` at the host's `n`-th reading (R21, R115). -/
def readCrcOut (n : Nat) (s : State) : Byte := if s.busy then Config.busyCrcOut n else s.crc

/-- Port `status` at the host's `n`-th reading (R16, R21, R115). -/
def readStatus (n : Nat) (s : State) : StatusWord :=
  if s.busy then Config.busyStatus n else statusRegister s

/-- Port `temp` at the host's `n`-th reading: TEMP, or an unspecified value while T_VALID = 0 (R20, R21,
R115). -/
def readTemp (n : Nat) (s : State) : Result :=
  if s.busy then Config.busyTemp n else if s.flag .tValid then s.temp else Config.unwrittenTemp n

/-- Port `rh` at the host's `n`-th reading: RH, or an unspecified value while RH_VALID = 0 (R20, R21,
R115). -/
def readRh (n : Nat) (s : State) : Result :=
  if s.busy then Config.busyRh n else if s.flag .rhValid then s.rh else Config.unwrittenRh n

/-- What a claim may take from port `temp` at that reading: "A read of it is a fault of the reading claim,
never a number" while T_VALID = 0 (R20, 93 I2; log 5). -/
def claimTemp (n : Nat) (s : State) : Except Fault Result :=
  if s.flag .tValid then .ok (readTemp n s) else .error .unwrittenTemp

/-- What a claim may take from port `rh` at that reading (R20, 93 I2; log 5). -/
def claimRh (n : Nat) (s : State) : Except Fault Result :=
  if s.flag .rhValid then .ok (readRh n s) else .error .unwrittenRh

/-- What a run is observed by: CRC, STATUS, TEMP or no value, RH or no value (R120). -/
structure Observation where
  crc : Byte
  status : StatusWord
  temp : Option Result
  rh : Option Result
  deriving DecidableEq, Repr

/-- The observation of a state between operations (R120, R20). -/
def observe (s : State) : Observation where
  crc := s.crc
  status := statusRegister s
  temp := if s.flag .tValid then some s.temp else none
  rh := if s.flag .rhValid then some s.rh else none

end Sys2Proof.Machine
end

