-- ==== Sys2Proof/Machine/Driver.lean ====
section
/-!
DEFINITION. The driver software around the block (host context: 30_encoding R51 to R54, 60_exceptions R98 to
R103): its command table and its seven entry points. The transport and the delay primitive are outside
(00_scope R6): a procedure takes what the transport answered, errors of any type (93 I9), and gives the
bus actions it asked for, the block operation it issued, the block's state after it and its result.
-/

namespace Sys2Proof.Machine

/-- The device's fixed 7-bit bus address (R52). -/
def deviceAddress : BitVec 7 := 0x70#7

/-- The six sensor commands of R51; the name is the mode tag of R54. -/
inductive SensorCommand where
  | hpmWait | hpmNoWait | lpmWait | lpmNoWait | softReset | readId
  deriving DecidableEq, Repr

/-- A command as its big-endian 16-bit word (R51). -/
def commandWord : SensorCommand → BitVec 16
  | .hpmWait => 0x7CA2#16
  | .hpmNoWait => 0x7866#16
  | .lpmWait => 0x6458#16
  | .lpmNoWait => 0x609C#16
  | .softReset => 0x805D#16
  | .readId => 0xEFC8#16

/-- Whether the command's write ends with a bus stop condition: the soft reset's alone does (R51). -/
def commandStop : SensorCommand → Bool
  | .softReset => true
  | .hpmWait | .hpmNoWait | .lpmWait | .lpmNoWait | .readId => false

/-- The two command bytes in bus order: the high byte first (R51, R27). -/
def commandBytes (c : SensorCommand) : List Byte :=
  [(commandWord c).extractLsb' 8 8, (commandWord c).extractLsb' 0 8]

/-- A command descriptor: opcode bytes and mode tag (R54). -/
structure CommandDescriptor where
  opcode : List Byte
  mode : SensorCommand
  deriving DecidableEq, Repr

/-- The immutable command table (R54, R23). -/
def commandTable : List CommandDescriptor :=
  [.hpmWait, .hpmNoWait, .lpmWait, .lpmNoWait, .softReset, .readId].map (fun c => ⟨commandBytes c, c⟩)

/-- What a procedure asks of the transport and of the delay primitive (60 section 4). -/
inductive BusAction where
  | write (address : BitVec 7) (bytes : List Byte) (withStop : Bool)
  | delay (milliseconds : Nat)
  | read (address : BitVec 7) (length : Nat)
  deriving DecidableEq, Repr

/-- The write of a command (R51, R52). -/
def writeCommand (c : SensorCommand) : BusAction :=
  .write deviceAddress (commandBytes c) (commandStop c)

/-- The outcome of a measurement read: the error taxonomy of R98, or the MeasurementResult (R99). -/
inductive MeasureResult (ε : Type) where
  | transportError (e : ε)
  | badData
  | ok (temp rh : Result)
  deriving DecidableEq, Repr

/-- One run of a procedure: its bus actions in order, the operations it issued to the block in order,
the block after them, and what the procedure returns. -/
structure Episode (ρ : Type) where
  bus : List BusAction
  issued : List Instr
  block : State
  result : ρ
  deriving DecidableEq, Repr

/-- Issue one operation to a block that is ready: the state after it. Every operation answers a next state,
so the other outcomes do not occur (R103; log 17). -/
def issue (i : Instr) (s : State) : State :=
  match exec i s with
  | .next t => t
  | .fault _ => s
  | .refused _ => s

/-- What the driver returns once FRM.MEAS has completed: `BadData` if STATUS.BAD_DATA = 1, else TEMP and RH
(R99). -/
def measurementOf (ε : Type) (s : State) : MeasureResult ε :=
  if s.flag .badData then .badData else .ok s.temp s.rh

/-- The last part of a measurement, which is also `read_async_result`: read six bytes, issue FRM.MEAS,
return its result (R99, R100). -/
def readAsyncResult {ε : Type} (answer : Except ε RawFrame) (s : State) : Episode (MeasureResult ε) :=
  match answer with
  | .error e => ⟨[.read deviceAddress 6], [], s, .transportError e⟩
  | .ok f =>
    ⟨[.read deviceAddress 6], [f.operation], issue f.operation s, measurementOf ε (issue f.operation s)⟩

/-- `read_xpm_sync(cmd)`: write the command, wait, read and decode; a failed write ends it at once (R99). -/
def readSync {ε : Type} (cmd : SensorCommand) (written : Except ε Unit) (answer : Except ε RawFrame)
    (s : State) : Episode (MeasureResult ε) :=
  match written with
  | .error e => ⟨[writeCommand cmd], [], s, .transportError e⟩
  | .ok _ =>
    { readAsyncResult answer s with
      bus := writeCommand cmd :: .delay Config.convWait :: (readAsyncResult answer s).bus }

/-- `read_hpm_sync` (R99). -/
def readHpmSync {ε : Type} (written : Except ε Unit) (answer : Except ε RawFrame) (s : State) :
    Episode (MeasureResult ε) :=
  readSync .hpmWait written answer s

/-- `read_lpm_sync` (R99). -/
def readLpmSync {ε : Type} (written : Except ε Unit) (answer : Except ε RawFrame) (s : State) :
    Episode (MeasureResult ε) :=
  readSync .lpmWait written answer s

/-- The start of a start/poll-later measurement: one write, no wait, no read, no block operation; it
returns the transport's status (R100). -/
def startAsync {ε : Type} (cmd : SensorCommand) (written : Except ε Unit) (s : State) :
    Episode (Except ε Unit) :=
  ⟨[writeCommand cmd], [], s, written⟩

/-- `read_hpm_async` (R100). -/
def readHpmAsync {ε : Type} (written : Except ε Unit) (s : State) : Episode (Except ε Unit) :=
  startAsync .hpmNoWait written s

/-- `read_lpm_async` (R100). -/
def readLpmAsync {ε : Type} (written : Except ε Unit) (s : State) : Episode (Except ε Unit) :=
  startAsync .lpmNoWait written s

/-- `reset`: the soft reset of the SENSOR; it returns the transport's status and does not touch the block
(R101). -/
def resetSensor {ε : Type} (written : Except ε Unit) (s : State) : Episode (Except ε Unit) :=
  ⟨[writeCommand .softReset], [], s, written⟩

/-- `probe`: the write's status is ignored, a failed read is "not present", else the verdict is
STATUS.PRESENT after FRM.ID (R102, 93 I6). -/
def probe {ε : Type} (_written : Except ε Unit) (answer : Except ε IdFrame) (s : State) : Episode Bool :=
  let bus := [writeCommand .readId, .delay Config.convWait, .read deviceAddress 3]
  match answer with
  | .error _ => ⟨bus, [], s, false⟩
  | .ok f => ⟨bus, [f.operation], issue f.operation s, (issue f.operation s).flag .present⟩

end Sys2Proof.Machine
end

