-- ==== Sys2Proof/Safety.lean ====
section
/-!
DEFINITION. What counts as a safe state of the block, and the terms the statements use: each is written
from a rule of spec/ and not from the meaning it is compared with.
-/

namespace Sys2Proof

open Sys2Proof.Machine

/-- The reserved bits 15:12 of the stored STATUS are 0 (10_state R16). -/
abbrev ReservedClear (s : State) : Prop := s.status &&& 0xF000#16 = 0#16

/-- Nothing is in flight: `busy` is 0 in every state a claim can observe (10_state R22). -/
abbrev NotBusy (s : State) : Prop := s.inFlight = none

/-- The verdict bits agree: FRAME_OK = T_OK && RH_OK, BAD_DATA excludes it, PRESENT = ID_CRC_OK && SIG_OK,
and an accepted frame has left both results valid (10_state R15, 42_frame R77, R78). -/
abbrev VerdictsAgree (s : State) : Prop :=
  s.status.getLsbD 3 = (s.status.getLsbD 1 && s.status.getLsbD 2) ∧
  (s.status.getLsbD 4 = true → s.status.getLsbD 3 = false) ∧
  s.status.getLsbD 7 = (s.status.getLsbD 5 && s.status.getLsbD 6) ∧
  (s.status.getLsbD 3 = true → s.status.getLsbD 8 = true ∧ s.status.getLsbD 9 = true)

/-- A written result is one the block can write: TEMP from -45000 to 129997, RH from 0 to 99998 (10_state
R18, R19). -/
abbrev ResultsInRange (s : State) : Prop :=
  (s.status.getLsbD 8 = true → -45000 ≤ s.temp.toInt ∧ s.temp.toInt ≤ 129997) ∧
  (s.status.getLsbD 9 = true → 0 ≤ s.rh.toInt ∧ s.rh.toInt ≤ 99998)

/-- The move is not a power-up. -/
def moveKeepsPower : HostMove → Bool
  | .drive _ _ _ => true
  | .powerUp _ _ _ _ => false

/-- No power loss is to come: the premise "reset was asserted before the first operation" is not undone
(70 R111). -/
abbrev KeepsPower (s : State) : Prop := s.host.all moveKeepsPower = true

/-- A safe state. -/
abbrev SafeState (s : State) : Prop :=
  ReservedClear s ∧ NotBusy s ∧ VerdictsAgree s ∧ ResultsInRange s ∧ KeepsPower s

/-- The host's next move neither asserts `rst` nor is a power-up. -/
def quietMove (s : State) : Bool :=
  match s.host with
  | [] => true
  | .drive rst _ _ :: _ => !rst
  | .powerUp _ _ _ _ :: _ => false

/-- STATUS goes from `old` to `new` by writing exactly the listed bits (bit number, value); every other bit
keeps its value (10_state R17). -/
def StatusWrites (old new : StatusWord) (writes : List (Nat × Bool)) : Prop :=
  ∀ n, n < 16 → new.getLsbD n = (writes.lookup n).getD (old.getLsbD n)

/-- The operations that write each bit of STATUS, from the table of 10_state R15. -/
def statusWriters : Nat → List Opcode
  | 0 => [.crcChk, .crcVfy]
  | 1 => [.frmMeas]
  | 2 => [.frmMeas]
  | 3 => [.frmMeas]
  | 4 => [.frmMeas]
  | 5 => [.frmId]
  | 6 => [.frmId]
  | 7 => [.frmId]
  | 8 => [.cvtT, .frmMeas]
  | 9 => [.cvtRh, .frmMeas]
  | _ => []

/-- One step of the CRC taken bit by bit: the message bit meets the register's top bit, and the
polynomial is added if they differ (20_memory R26, 40_crc R55). -/
def bitSerialStep (r : Byte) (messageBit : Bool) : Byte :=
  if r.getLsbD 7 ^^ messageBit then (r <<< 1) ^^^ 0x31#8 else r <<< 1

/-- The bits of a byte in the order they enter the CRC: bit 7 first (20_memory R26). -/
def bitsMsbFirst (b : Byte) : List Bool :=
  [b.getLsbD 7, b.getLsbD 6, b.getLsbD 5, b.getLsbD 4, b.getLsbD 3, b.getLsbD 2, b.getLsbD 1, b.getLsbD 0]

/-- The operations that belong to a CRC stream; the others may stand inside one without effect on it
(70 R116). -/
def touchesStream : Instr → Bool
  | .crcInit | .crcByte _ | .crcChk _ | .crcPair _ _ | .crcVfy _ _ _ => true
  | .nop | .cvtT _ | .cvtRh _ | .frmMeas _ _ _ _ _ _ | .frmId _ _ _ => false

/-- The word is illegal with this cause. -/
def isIllegal (cause : IllegalCause) (w : OpWord) : Bool :=
  match decode w with
  | .ok _ => false
  | .error c => decide (c = cause)

/-- CRC.BYTE, the one operation that is not idempotent (20_memory R33). -/
def isCrcByte : Instr → Bool
  | .crcByte _ => true
  | .nop | .crcInit | .crcChk _ | .crcPair _ _ | .crcVfy _ _ _ => false
  | .cvtT _ | .cvtRh _ | .frmMeas _ _ _ _ _ _ | .frmId _ _ _ => false

/-- The ten defined opcode bytes (30_encoding R43, R45). -/
def definedOpcodes : List Byte :=
  [0x00#8, 0x01#8, 0x02#8, 0x03#8, 0x04#8, 0x05#8, 0x08#8, 0x09#8, 0x0C#8, 0x0D#8]

/-- The bits that must be 0 in a word with this opcode byte, read off the tables of 30_encoding R43 and R44. -/
def reservedBitsOf (opc : Byte) : OpWord :=
  if opc = 0x00#8 ∨ opc = 0x01#8 then 0x00FFFFFFFFFFFFFF#64
  else if opc = 0x02#8 ∨ opc = 0x03#8 then 0x00FFFFFFFFFFFF00#64
  else if opc = 0x04#8 ∨ opc = 0x08#8 ∨ opc = 0x09#8 then 0x00FFFFFFFFFF0000#64
  else if opc = 0x05#8 ∨ opc = 0x0D#8 then 0x00FFFFFFFF000000#64
  else 0x00FF000000000000#64

/-- How many positions of two triples of bytes differ (42_frame R80). -/
def bytesChanged (h g : HalfFrame) : Nat :=
  (if h.msb = g.msb then 0 else 1) + (if h.lsb = g.lsb then 0 else 1) + (if h.crc = g.crc then 0 else 1)

end Sys2Proof
end

