-- ==== Sys2Proof/Certificates/Slice0/Obligations.lean ====
section
/-!
DEFINITION. The statements for the provers, from the numbered rules of spec/. Bit numbers, masks and
constants are written out from the rules, not taken from the definitions they are about.
-/

open Sys2Proof Sys2Proof.Machine

/-! ### Encoding -/

/-- Decoding the word of any operation gives it back, every operand at every value (30_encoding R41, R45,
R49). -/
def Obligations.DecodeOfEncodeIsTheOperation : Prop :=
  ∀ i : Instr, decode (encode i) = .ok i

/-- Each operation has one word: a word that decodes to an operation is the word of that operation
(30_encoding R41, R44, R45). -/
def Obligations.EncodeOfDecodeIsTheWord : Prop :=
  ∀ (w : OpWord) (i : Instr), decode w = .ok i → encode i = w

/-- A word decodes to an operation of a row of the opcode table exactly if it has the row's `match` under the
row's `mask` (opcode_table.json; 30_encoding R43). -/
def Obligations.OpcodeTableRowsSelectTheirOperations : Prop :=
  ∀ w : OpWord,
    ((∃ i, decode w = .ok i ∧ i.opcode = .nop) ↔
      w &&& 0xFFFFFFFFFFFFFFFF#64 = 0x0000000000000000#64) ∧
    ((∃ i, decode w = .ok i ∧ i.opcode = .crcInit) ↔
      w &&& 0xFFFFFFFFFFFFFFFF#64 = 0x0100000000000000#64) ∧
    ((∃ i, decode w = .ok i ∧ i.opcode = .crcByte) ↔
      w &&& 0xFFFFFFFFFFFFFF00#64 = 0x0200000000000000#64) ∧
    ((∃ i, decode w = .ok i ∧ i.opcode = .crcChk) ↔
      w &&& 0xFFFFFFFFFFFFFF00#64 = 0x0300000000000000#64) ∧
    ((∃ i, decode w = .ok i ∧ i.opcode = .crcPair) ↔
      w &&& 0xFFFFFFFFFFFF0000#64 = 0x0400000000000000#64) ∧
    ((∃ i, decode w = .ok i ∧ i.opcode = .crcVfy) ↔
      w &&& 0xFFFFFFFFFF000000#64 = 0x0500000000000000#64) ∧
    ((∃ i, decode w = .ok i ∧ i.opcode = .cvtT) ↔
      w &&& 0xFFFFFFFFFFFF0000#64 = 0x0800000000000000#64) ∧
    ((∃ i, decode w = .ok i ∧ i.opcode = .cvtRh) ↔
      w &&& 0xFFFFFFFFFFFF0000#64 = 0x0900000000000000#64) ∧
    ((∃ i, decode w = .ok i ∧ i.opcode = .frmMeas) ↔
      w &&& 0xFFFF000000000000#64 = 0x0C00000000000000#64) ∧
    ((∃ i, decode w = .ok i ∧ i.opcode = .frmId) ↔
      w &&& 0xFFFFFFFFFF000000#64 = 0x0D00000000000000#64)

/-- Words written out in the spec decode to the operations it gives them for (95_test_vectors L1, L2, P4). -/
def Obligations.WordsOfTheSpecDecode : Prop :=
  decode 0x0000000000000000#64 = .ok .nop ∧
  decode 0x0100000000000000#64 = .ok .crcInit ∧
  decode 0x02000000000000BE#64 = .ok (.crcByte 0xBE#8) ∧
  decode 0x0300000000000092#64 = .ok (.crcChk 0x92#8) ∧
  decode 0x040000000000BEEF#64 = .ok (.crcPair 0xBE#8 0xEF#8) ∧
  decode 0x0500000000683AFD#64 = .ok (.crcVfy 0x68#8 0x3A#8 0xFD#8) ∧
  decode 0x0800000000006850#64 = .ok (.cvtT 0x6850#16) ∧
  decode 0x090000000000FFFF#64 = .ok (.cvtRh 0xFFFF#16) ∧
  decode 0x0C00683AFD8000A2#64 = .ok (.frmMeas 0x68#8 0x3A#8 0xFD#8 0x80#8 0x00#8 0xA2#8) ∧
  decode 0x0D0000000000472B#64 = .ok (.frmId 0x00#8 0x47#8 0x2B#8) ∧
  decode 0x06FFFFFFFFFFFFFF#64 = .error .illOpc ∧
  decode 0x0D00000001472B00#64 = .error .illRsv

/-- The payload of a frame operation is the wire bytes in order, the first most significant; byte `j` of `k`
stands at bits [8*(k-1-j)+7 : 8*(k-1-j)], and a raw code has its first wire byte high (20_memory R27, R29). -/
def Obligations.PayloadsHoldWireBytesBigEndian : Prop :=
  (∀ f0 f1 f2 f3 f4 f5 : Byte,
    (encode (.frmMeas f0 f1 f2 f3 f4 f5)).extractLsb' 0 48 = f0 ++ f1 ++ f2 ++ f3 ++ f4 ++ f5 ∧
    ∀ j, j < 6 → (encode (.frmMeas f0 f1 f2 f3 f4 f5)).extractLsb' (8 * (6 - 1 - j)) 8 =
      [f0, f1, f2, f3, f4, f5].getD j 0#8) ∧
  (∀ b0 b1 b2 : Byte,
    (encode (.crcVfy b0 b1 b2)).extractLsb' 0 24 = b0 ++ b1 ++ b2 ∧
    (encode (.frmId b0 b1 b2)).extractLsb' 0 24 = b0 ++ b1 ++ b2) ∧
  (∀ hi lo : Byte,
    (encode (.crcPair hi lo)).extractLsb' 0 16 = be16 hi lo ∧
    (encode (.cvtT (be16 hi lo))).extractLsb' 8 8 = hi ∧
    (encode (.cvtT (be16 hi lo))).extractLsb' 0 8 = lo ∧
    (be16 hi lo).toNat = hi.toNat * 256 + lo.toNat)

/-- The assembler gives each line the word of R49's table, and refuses an operand out of range: never a
truncation (30_encoding R49). -/
def Obligations.AssemblerEncodesOrRefuses : Prop :=
  ∀ a b c d e f : Nat,
    assembleLine .nop = some [BitVec.ofNat 64 0] ∧
    assembleLine .crcInit = some [BitVec.ofNat 64 (0x01 * 2 ^ 56)] ∧
    assembleLine (.crcByte a) =
      (if a ≤ 255 then some [BitVec.ofNat 64 (0x02 * 2 ^ 56 + a)] else none) ∧
    assembleLine (.crcChk a) =
      (if a ≤ 255 then some [BitVec.ofNat 64 (0x03 * 2 ^ 56 + a)] else none) ∧
    assembleLine (.crcPair a b) =
      (if a ≤ 255 ∧ b ≤ 255 then some [BitVec.ofNat 64 (0x04 * 2 ^ 56 + a * 2 ^ 8 + b)] else none) ∧
    assembleLine (.crcVfy a b c) =
      (if a ≤ 255 ∧ b ≤ 255 ∧ c ≤ 255 then
        some [BitVec.ofNat 64 (0x05 * 2 ^ 56 + a * 2 ^ 16 + b * 2 ^ 8 + c)] else none) ∧
    assembleLine (.cvtT a) =
      (if a ≤ 65535 then some [BitVec.ofNat 64 (0x08 * 2 ^ 56 + a)] else none) ∧
    assembleLine (.cvtRh a) =
      (if a ≤ 65535 then some [BitVec.ofNat 64 (0x09 * 2 ^ 56 + a)] else none) ∧
    assembleLine (.frmMeas a b c d e f) =
      (if a ≤ 255 ∧ b ≤ 255 ∧ c ≤ 255 ∧ d ≤ 255 ∧ e ≤ 255 ∧ f ≤ 255 then
        some [BitVec.ofNat 64 (0x0C * 2 ^ 56 + a * 2 ^ 40 + b * 2 ^ 32 + c * 2 ^ 24 + d * 2 ^ 16 + e * 2 ^ 8 + f)]
      else none) ∧
    assembleLine (.frmId a b c) =
      (if a ≤ 255 ∧ b ≤ 255 ∧ c ≤ 255 then
        some [BitVec.ofNat 64 (0x0D * 2 ^ 56 + a * 2 ^ 16 + b * 2 ^ 8 + c)] else none) ∧
    assembleLine (.word64 a) = (if a < 2 ^ 64 then some [BitVec.ofNat 64 a] else none)

/-! ### Steps, reset and power -/

/-- When the block is ready and the host offers a word that decodes to an operation, the step is `exec` of that
operation on the state in which the host has made its move (20_memory R32, 30_encoding R45). -/
def Obligations.StepRunsTheDecodedOperation : Prop :=
  ∀ (s : State) (w : OpWord) (i : Instr) (rest : List HostMove),
    s.inFlight = none → s.host = .drive false true w :: rest → decode w = .ok i →
      step s = exec i { s with host := rest }

/-- Every word is an operation or illegal. An undefined opcode sets ILL_OPC whatever the reserved bits hold; a
defined opcode with a reserved bit set sets ILL_RSV; nothing else changes in either case; every other word
runs as an operation (30_encoding R46). -/
def Obligations.EveryWordRunsOrSetsItsStickyBit : Prop :=
  ∀ (s : State) (w : OpWord) (rest : List HostMove),
    s.inFlight = none → s.host = .drive false true w :: rest →
      (w.extractLsb' 56 8 ∉ definedOpcodes →
        step s = .next { s with host := rest, status := s.status ||| 0x0400#16 }) ∧
      (w.extractLsb' 56 8 ∈ definedOpcodes → w &&& reservedBitsOf (w.extractLsb' 56 8) ≠ 0#64 →
        step s = .next { s with host := rest, status := s.status ||| 0x0800#16 }) ∧
      (w.extractLsb' 56 8 ∈ definedOpcodes → w &&& reservedBitsOf (w.extractLsb' 56 8) = 0#64 →
        ∃ i, decode w = .ok i ∧ step s = exec i { s with host := rest })

/-- The state after reset: CRC = 0xFF, STATUS = 0, `op_ready` = 1; ports `temp` and `rh` show an unspecified value,
and a claim's reading of them is a fault, never a number (10_state R20, R21, R24). That the unspecified value depends on
the reading's number alone is the MODEL'S CHOICE (log 5, DESIGN CHOICE). -/
def Obligations.ResetStateIsAsSpecified : Prop :=
  State.reset.crc = 0xFF#8 ∧ State.reset.status = 0x0000#16 ∧ opReady State.reset = true ∧
  ∀ n, readTemp n State.reset = Config.unwrittenTemp n ∧ readRh n State.reset = Config.unwrittenRh n ∧
    claimTemp n State.reset = .error .unwrittenTemp ∧ claimRh n State.reset = .error .unwrittenRh ∧
    readCrcOut n State.reset = 0xFF#8 ∧ readStatus n State.reset = 0x0000#16

/-- `rst` wins: from any state, an operation in flight or offered in the same step leaves no effect and the state
is that of reset, TEMP and RH without a value (70 R109, R112). That the unspecified value a port then shows depends
on the reading's number alone is the MODEL'S CHOICE (log 5, DESIGN CHOICE). The clause `t.host = rest`, that the offered word is
used up with the `rst` move and the host goes on with its later moves, is the MODEL'S CHOICE and no rule of the spec
(logs 2 and 16, DESIGN CHOICE). -/
def Obligations.ResetWinsOverAnyOperation : Prop :=
  ∀ (s : State) (opValid : Bool) (w : OpWord) (rest : List HostMove),
    s.host = .drive true opValid w :: rest →
      ∃ t, step s = .next t ∧ t.crc = 0xFF#8 ∧ t.status = 0x0000#16 ∧ t.inFlight = none ∧ t.host = rest ∧
        ∀ n, readTemp n t = Config.unwrittenTemp n ∧ readRh n t = Config.unwrittenRh n ∧
          claimTemp n t = .error .unwrittenTemp ∧ claimRh n t = .error .unwrittenRh

/-- Only reset clears T_VALID, RH_VALID, ILL_OPC and ILL_RSV: a step in which the host neither asserts `rst` nor
loses power keeps each of them once it is 1 (60 R91, 70 R109). -/
def Obligations.OnlyResetClearsStickyAndValidBits : Prop :=
  ∀ (s t : State) (n : Nat),
    quietMove s = true → step s = .next t → n ∈ [8, 9, 10, 11] →
      s.status.getLsbD n = true → t.status.getLsbD n = true

/-- Power-up leaves in CRC, STATUS, TEMP and RH whatever values were drawn, with the reserved bits of STATUS 0, from any
state; that nothing is in flight then and that the reserved bits are 0 is the model's reading (70 R108, R111; log 7). -/
def Obligations.PowerUpLeavesTheDrawnValues : Prop :=
  ∀ (s : State) (crc : Byte) (status : StatusWord) (temp rh : Result) (rest : List HostMove),
    s.host = .powerUp crc status temp rh :: rest →
      step s = .next ⟨crc, status &&& 0x0FFF#16, temp, rh, none, rest⟩

/-- A step always answers a next state, and leaves the block ready: no word faults or is refused, an accepted
operation always completes, and `busy` is 0 between steps (10_state R22, 60 R103). -/
def Obligations.EveryStepCompletesAndLeavesTheBlockReady : Prop :=
  ∀ s : State, ∃ t, step s = .next t ∧ t.inFlight = none ∧ opReady t = true

/-- While an operation is in flight the block accepts nothing (10_state R22, 20_memory R38, 70 R114): the step completes
the captured word, and the word the host holds on the port waits unchanged. What a step does in a busy state is the
MODEL'S CHOICE (log 3, DESIGN CHOICE), and that the host's drive stands, `t.host = s.host`, is the model's reading of
the host's duty (log 9, DEDUCED, unsafe for a host that breaks it). No step leaves such a state (`NotBusy`,
EveryStepCompletesAndLeavesTheBlockReady), and none is observable in the atomic model (R22). -/
def Obligations.BusyBlockCompletesAndTheOfferWaits : Prop :=
  ∀ (s : State) (w v : OpWord) (opValid : Bool) (rest : List HostMove),
    s.inFlight = some w → s.host = .drive false opValid v :: rest →
      step s = execWord w { s with inFlight := none } ∧ ∃ t, step s = .next t ∧ t.host = s.host

/-- Between operations the block is idle and all its state persists (60 R108). -/
def Obligations.IdleBlockKeepsItsState : Prop :=
  ∀ (s : State) (w : OpWord) (rest : List HostMove), s.inFlight = none →
    (s.host = [] → step s = .next s) ∧
    (s.host = .drive false false w :: rest → step s = .next { s with host := rest })

/-- Operations take effect one at a time in the order the host issues them, each reading the state the earlier ones
left: a run over the words on the port is the words executed in sequence (20_memory R35, 70 R120). -/
def Obligations.IssuedWordsRunInOrder : Prop :=
  ∀ (ws : List OpWord) (s : State), s.inFlight = none →
    Sys2Proof.core.run ws.length (issueWords ws s) = execWords ws { s with host := [] }

/-- The reset state is safe. -/
def Obligations.ResetStateIsSafe : Prop := SafeState State.reset

/-- Every step from a safe state leads to a safe state: reserved bits 0, nothing in flight, verdict bits agreeing, written
results in the ranges the block can write (10_state R15, R16, R18, R19, R22). -/
def Obligations.EveryStepKeepsTheStateSafe : Prop :=
  ∀ s t : State, SafeState s → step s = .next t → SafeState t

/-- From any state, after any words, ILL_OPC is set exactly if it was set or some word had an undefined opcode, and
ILL_RSV exactly if it was set or some word had a defined opcode and a reserved bit set. So from reset both are 0 at the
end exactly if no illegal word was issued (60 R88, R91). -/
def Obligations.StickyBitsRecordWhetherAWordWasIllegal : Prop :=
  ∀ (ws : List OpWord) (s : State), ∃ t, execWords ws s = .next t ∧
    t.status.getLsbD 10 = (s.status.getLsbD 10 || ws.any (isIllegal .illOpc)) ∧
    t.status.getLsbD 11 = (s.status.getLsbD 11 || ws.any (isIllegal .illRsv))

/-! ### Registers, ports and who writes what -/

/-- Bits 15:12 of STATUS read 0 on the port of a block that is not busy, and no operation and no illegal word writes them
(10_state R16). -/
def Obligations.ReservedStatusBitsReadZeroAndAreNotWritten : Prop :=
  (∀ (s : State) (n : Nat), s.busy = false → readStatus n s &&& 0xF000#16 = 0#16) ∧
  (∀ (w : OpWord) (s t : State), execWord w s = .next t →
    t.status &&& 0xF000#16 = s.status &&& 0xF000#16)

/-- An operation writes only the STATUS bits that name it in the table of R15; every other bit keeps its value; the sticky
bits are written by no operation (10_state R15, R17). -/
def Obligations.OperationsWriteOnlyTheirStatusBits : Prop :=
  ∀ (i : Instr) (s t : State) (n : Nat),
    exec i s = .next t → i.opcode ∉ statusWriters n → t.status.getLsbD n = s.status.getLsbD n

/-- Only CRC.INIT, CRC.BYTE, CRC.PAIR and CRC.VFY write CRC, only CVT.T and FRM.MEAS write TEMP, only CVT.RH and FRM.MEAS
write RH, and no operation touches the handshake or the host's moves (10_state R14, R18, R19). -/
def Obligations.OperationsWriteOnlyTheirRegisters : Prop :=
  ∀ (i : Instr) (s t : State), exec i s = .next t →
    (i.opcode ∉ [.crcInit, .crcByte, .crcPair, .crcVfy] → t.crc = s.crc) ∧
    (i.opcode ∉ [.cvtT, .frmMeas] → t.temp = s.temp) ∧
    (i.opcode ∉ [.cvtRh, .frmMeas] → t.rh = s.rh) ∧
    t.inFlight = s.inFlight ∧ t.host = s.host

/-- Two states that the host cannot tell apart step to states it cannot tell apart: what TEMP and RH hold while their valid
bits are 0 shows in no observation, no reading of `crc_out` or `status` and no claim's reading (10_state R20, 70 R110,
R120), in particular not the values the model names for them at reset (logs 4 and 16, DESIGN CHOICE). The two clauses
on `readTemp` and `readRh` are the MODEL'S CHOICE for unwritten results, and no rule of the spec: they hold because the
free values `Config.unwrittenTemp` and `Config.unwrittenRh` depend on the reading's number alone (log 5, DESIGN
CHOICE), where the spec leaves the value shown unspecified and a port may show what its register still holds. -/
def Obligations.UnwrittenResultsNeverShow : Prop :=
  ∀ s u : State, s.host = u.host → s.inFlight = u.inFlight → observe s = observe u →
    ∃ s' u', step s = .next s' ∧ step u = .next u' ∧
      observe s' = observe u' ∧ s'.host = u'.host ∧ s'.inFlight = u'.inFlight ∧
      ∀ n, readCrcOut n s' = readCrcOut n u' ∧ readStatus n s' = readStatus n u' ∧
        readTemp n s' = readTemp n u' ∧ readRh n s' = readRh n u' ∧
        claimTemp n s' = claimTemp n u' ∧ claimRh n s' = claimRh n u'

/-- While the block is not busy the ports show the registers exactly; the port of a result register that was not written
shows an unspecified value, and a claim's reading of it is a fault, never a number (10_state R20, R21). That the
unspecified value depends on the reading's number alone is the MODEL'S CHOICE (log 5, DESIGN CHOICE). -/
def Obligations.PortsShowTheRegisters : Prop :=
  ∀ (s : State) (n : Nat), s.busy = false →
    readCrcOut n s = s.crc ∧
    (s.status &&& 0xF000#16 = 0#16 → readStatus n s = s.status) ∧
    readTemp n s = (if s.status.getLsbD 8 then s.temp else Config.unwrittenTemp n) ∧
    readRh n s = (if s.status.getLsbD 9 then s.rh else Config.unwrittenRh n) ∧
    claimTemp n s = (if s.status.getLsbD 8 then .ok s.temp else .error .unwrittenTemp) ∧
    claimRh n s = (if s.status.getLsbD 9 then .ok s.rh else .error .unwrittenRh)

/-- Issuing the same operation twice in a row leaves the same state as issuing it once, for every operation but
CRC.BYTE, and for an illegal word; for CRC.BYTE it does not (20_memory R33). -/
def Obligations.EveryOperationButCrcByteIsIdempotent : Prop :=
  (∀ (i : Instr) (s : State), isCrcByte i = false →
    ∃ t, exec i s = .next t ∧ exec i t = .next t) ∧
  (∀ (w : OpWord) (c : IllegalCause) (s : State), decode w = .error c →
    ∃ t, execWord w s = .next t ∧ execWord w t = .next t) ∧
  (∃ (b : Byte) (s t : State), exec (.crcByte b) s = .next t ∧ exec (.crcByte b) t ≠ .next t)

/-! ### The CRC as a function -/

/-- The shift step, for every register value; the XOR with 0x31 leaves bits 7:6 alone, so a register one bit wider that
is truncated after the XOR gives the same value as one truncated before it; and the examples (40_crc R55). -/
def Obligations.CrcStepShiftsAndReduces : Prop :=
  (∀ r : Byte, crc8Step r = if r.getLsbD 7 = true then (r <<< 1) ^^^ 0x31#8 else r <<< 1) ∧
  (∀ r : Byte, (r ^^^ 0x31#8).extractLsb' 6 2 = r.extractLsb' 6 2 ∧
    crc8Step r = if r.getLsbD 7 = true then ((r.setWidth 9 <<< 1) ^^^ 0x31#9).setWidth 8
      else (r.setWidth 9 <<< 1).setWidth 8) ∧
  crc8Step 0x80#8 = 0x31#8 ∧ crc8Step 0x7F#8 = 0xFE#8 ∧ crc8Step 0xFF#8 = 0xCF#8 ∧ crc8Step 0x00#8 = 0x00#8

/-- A shift step multiplies by x modulo x^8 + x^5 + x^4 + 1 over GF(2), whose coefficients are the bits of 0x131
(00_scope R4, 40_crc R55). -/
def Obligations.CrcStepMultipliesByXModuloThePolynomial : Prop :=
  ∀ r : Byte, (crc8Step r).toNat =
    if 2 * r.toNat < 256 then 2 * r.toNat else (2 * r.toNat) ^^^ 0x131

/-- The CRC of a byte sequence: 0xFF for the empty sequence, and one more byte updates it; an update XORs the byte in and
shifts eight times (40_crc R56, R57). -/
def Obligations.CrcOfASequenceFoldsItsBytes : Prop :=
  crc8 [] = 0xFF#8 ∧
  (∀ (data : List Byte) (b : Byte), crc8 (data ++ [b]) = crc8Update (crc8 data) b) ∧
  (∀ r b : Byte, crc8Update r b = crc8Step^[8] (r ^^^ b)) ∧
  crc8Update 0xFF#8 0xBE#8 = 0x0C#8 ∧ crc8 [0xBE#8, 0xEF#8] = 0x92#8

/-- Taking a byte into the register at once is taking its bits one at a time, bit 7 first, with no reflection (20_memory
R26, 40_crc R56). -/
def Obligations.CrcUpdateTakesTheBitsMsbFirst : Prop :=
  ∀ r b : Byte, crc8Update r b = (bitsMsbFirst b).foldl bitSerialStep r

/-- The update is linear over GF(2) in register and byte together (40_crc R55, R56). -/
def Obligations.CrcUpdateIsLinear : Prop :=
  ∀ r r' b b' : Byte,
    crc8Update (r ^^^ r') (b ^^^ b') = crc8Update r b ^^^ crc8Update r' b'

/-- For a fixed register the update is a bijection of the byte, and for a fixed byte a bijection of the register
(40_crc R64). -/
def Obligations.CrcUpdateIsABijectionInEachArgument : Prop :=
  (∀ r : Byte, Function.Bijective fun b => crc8Update r b) ∧
  (∀ b : Byte, Function.Bijective fun r => crc8Update r b)

/-- Changing exactly one byte of a pair changes its checksum, and changing exactly one byte of a valid triple, so any
single bit too, makes `verify` false; changes to both bytes can go undetected (40_crc R64). -/
def Obligations.OneChangedByteOfATripleIsDetected : Prop :=
  (∀ d0 d1 e : Byte, (e ≠ d0 → crc8 [e, d1] ≠ crc8 [d0, d1]) ∧ (e ≠ d1 → crc8 [d0, e] ≠ crc8 [d0, d1])) ∧
  (∀ h g : HalfFrame, verify [h.msb, h.lsb] h.crc = true → bytesChanged h g = 1 →
    verify [g.msb, g.lsb] g.crc = false) ∧
  crc8 [0x68#8, 0x3A#8] = 0xFD#8 ∧ crc8 [0x00#8, 0x38#8] = 0xFD#8

/-- Each of the 256 checksums belongs to exactly 256 of the 65536 pairs (40_crc R64). -/
def Obligations.EachChecksumBelongsToExactly256Pairs : Prop :=
  ∀ c : Byte, (Finset.univ.filter fun p : Byte × Byte => crc8 [p.1, p.2] = c).card = 256

/-- Round trip and zero residue: a pair verifies against its own checksum, a valid triple streamed whole leaves 0x00, and no
other third byte does (40_crc R66). -/
def Obligations.ValidTriplesAndOnlyTheyLeaveZero : Prop :=
  ∀ d0 d1 : Byte, verify [d0, d1] (crc8 [d0, d1]) = true ∧
    crc8 [d0, d1, crc8 [d0, d1]] = 0x00#8 ∧
    ∀ c, c ≠ crc8 [d0, d1] → crc8 [d0, d1, c] ≠ 0x00#8

/-! ### The operations -/

/-- NOP: the all-zero word and no other word is NOP; it changes nothing; opcode 0x00 with any other bit set is ILL_RSV
(43_system R82). -/
def Obligations.NopChangesNothing : Prop :=
  ∀ s : State, exec .nop s = .next s ∧
    ∀ w : OpWord, (decode w = .ok .nop ↔ w = 0x0000000000000000#64) ∧
      (w.extractLsb' 56 8 = 0x00#8 → w.extractLsb' 0 56 ≠ 0#56 →
        execWord w s = .next { s with status := s.status ||| 0x0800#16 })

/-- CRC.INIT: CRC becomes 0xFF and nothing else changes; a 1 in op[55:0] is ILL_RSV (40_crc R59). -/
def Obligations.CrcInitSetsCrcToFF : Prop :=
  decode 0x0100000000000000#64 = .ok .crcInit ∧
  ∀ s : State, exec .crcInit s = .next { s with crc := 0xFF#8 } ∧
    (s.crc = 0xFF#8 → exec .crcInit s = .next s) ∧
    ∀ w : OpWord, w.extractLsb' 56 8 = 0x01#8 → w.extractLsb' 0 56 ≠ 0#56 →
      execWord w s = .next { s with status := s.status ||| 0x0800#16 }

/-- CRC.BYTE: CRC becomes the running CRC updated with the byte, each byte giving another result, and nothing else changes;
a 1 in op[55:8] is ILL_RSV (40_crc R60). -/
def Obligations.CrcByteFoldsOneByte : Prop :=
  (∀ b : Byte, decode (0x02000000000000#56 ++ b) = .ok (.crcByte b)) ∧
  (∀ (s : State) (b : Byte),
    exec (.crcByte b) s = .next { s with crc := crc8Step^[8] (s.crc ^^^ b) } ∧
    ∀ c, crc8Step^[8] (s.crc ^^^ c) = crc8Step^[8] (s.crc ^^^ b) → c = b) ∧
  (∀ (s : State) (w : OpWord), w.extractLsb' 56 8 = 0x02#8 → w.extractLsb' 8 48 ≠ 0#48 →
    execWord w s = .next { s with status := s.status ||| 0x0800#16 }) ∧
  crc8Update 0x00#8 0x00#8 = 0x00#8 ∧ crc8Update 0xFF#8 0xFF#8 = 0x00#8 ∧
  crc8Update 0xFF#8 0xBE#8 = 0x0C#8 ∧ crc8Update 0x0C#8 0xEF#8 = 0x92#8

/-- CRC.CHK: CRC_OK becomes whether CRC equals the operand; nothing else changes; a 1 in op[55:8] is ILL_RSV. Right after
CRC.INIT it is true only for 0xFF, and for 0x00 after a valid triple was streamed (40_crc R61). -/
def Obligations.CrcChkComparesTheRunningCrc : Prop :=
  (∀ c : Byte, decode (0x03000000000000#56 ++ c) = .ok (.crcChk c)) ∧
  (∀ (s : State) (c : Byte), ∃ t, exec (.crcChk c) s = .next t ∧
    StatusWrites s.status t.status [(0, decide (s.crc = c))] ∧ t = { s with status := t.status }) ∧
  (∀ (s : State) (w : OpWord), w.extractLsb' 56 8 = 0x03#8 → w.extractLsb' 8 48 ≠ 0#48 →
    execWord w s = .next { s with status := s.status ||| 0x0800#16 }) ∧
  (∀ (s : State) (c : Byte), ∃ t, execAll [.crcInit, .crcChk c] s = .next t ∧
    t.status.getLsbD 0 = decide (c = 0xFF#8)) ∧
  (∀ (s : State) (d0 d1 : Byte), ∃ t,
    execAll [.crcInit, .crcByte d0, .crcByte d1, .crcByte (crc8 [d0, d1]), .crcChk 0x00#8] s = .next t ∧
    t.crc = 0x00#8 ∧ t.status.getLsbD 0 = true)

/-- CRC.PAIR: CRC becomes the pair's checksum whatever it held; nothing else changes; a 1 in op[55:16] is ILL_RSV
(40_crc R62). -/
def Obligations.CrcPairComputesThePairsChecksum : Prop :=
  (∀ d0 d1 : Byte, decode (0x040000000000#48 ++ d0 ++ d1) = .ok (.crcPair d0 d1)) ∧
  (∀ (s : State) (d0 d1 : Byte),
    exec (.crcPair d0 d1) s = .next { s with crc := crc8Update (crc8Update 0xFF#8 d0) d1 }) ∧
  (∀ (s : State) (w : OpWord), w.extractLsb' 56 8 = 0x04#8 → w.extractLsb' 16 40 ≠ 0#40 →
    execWord w s = .next { s with status := s.status ||| 0x0800#16 }) ∧
  crc8 [0x00#8, 0x00#8] = 0x81#8 ∧ crc8 [0xFF#8, 0xFF#8] = 0xAC#8 ∧ crc8 [0x68#8, 0x3A#8] = 0xFD#8 ∧
  crc8 [0x00#8, 0x38#8] = 0xFD#8 ∧ crc8 [0xBE#8, 0xEF#8] = 0x92#8

/-- CRC.VFY: CRC becomes the pair's checksum, matching or not, and CRC_OK whether it equals the third byte; nothing else
changes; a 1 in op[55:24] is ILL_RSV (40_crc R63). -/
def Obligations.CrcVfyVerifiesThePair : Prop :=
  (∀ d0 d1 c : Byte, decode (0x0500000000#40 ++ d0 ++ d1 ++ c) = .ok (.crcVfy d0 d1 c)) ∧
  (∀ (s : State) (d0 d1 c : Byte), ∃ t, exec (.crcVfy d0 d1 c) s = .next t ∧
    t.crc = crc8 [d0, d1] ∧ StatusWrites s.status t.status [(0, decide (crc8 [d0, d1] = c))] ∧
    t = { s with crc := t.crc, status := t.status }) ∧
  (∀ (s : State) (w : OpWord), w.extractLsb' 56 8 = 0x05#8 → w.extractLsb' 24 32 ≠ 0#32 →
    execWord w s = .next { s with status := s.status ||| 0x0800#16 }) ∧
  (∀ d0 d1 : Byte, ∃! c, decide (crc8 [d0, d1] = c) = true) ∧
  crc8 [0x68#8, 0x3A#8] = 0xFD#8

/-- CVT.T: TEMP becomes floor(21875*S/8192) - 45000 as a signed number and T_VALID 1; nothing else changes; a 1 in
op[55:16] is ILL_RSV (41_convert R72). -/
def Obligations.CvtTWritesMilliDegrees : Prop :=
  (∀ code : Code, decode (0x080000000000#48 ++ code) = .ok (.cvtT code)) ∧
  (∀ (s : State) (code : Code), ∃ t, exec (.cvtT code) s = .next t ∧
    t.temp.toInt = (21875 * code.toNat : Int) / 8192 - 45000 ∧ t.temp ≠ 0#32 ∧
    StatusWrites s.status t.status [(8, true)] ∧ t = { s with temp := t.temp, status := t.status }) ∧
  (∀ (s : State) (w : OpWord), w.extractLsb' 56 8 = 0x08#8 → w.extractLsb' 16 40 ≠ 0#40 →
    execWord w s = .next { s with status := s.status ||| 0x0800#16 }) ∧
  s32 (convT 0#16) = 0xFFFF5038#32 ∧ s32 (convT 0xFFFF#16) = 0x0001FBCD#32 ∧ s32 (convT 16852#16) = 0xFFFFFFFF#32 ∧
  s32 (convT 16853#16) = 2#32 ∧ s32 (convT 0x6850#16) = 0x000066C3#32

/-- CVT.RH: RH becomes floor(12500*S/8192) and RH_VALID 1; nothing else changes; a 1 in op[55:16] is ILL_RSV (41_convert
R73). -/
def Obligations.CvtRhWritesMilliPercent : Prop :=
  (∀ code : Code, decode (0x090000000000#48 ++ code) = .ok (.cvtRh code)) ∧
  (∀ (s : State) (code : Code), ∃ t, exec (.cvtRh code) s = .next t ∧
    t.rh.toInt = (12500 * code.toNat : Int) / 8192 ∧ t.rh ≠ 100000#32 ∧
    StatusWrites s.status t.status [(9, true)] ∧ t = { s with rh := t.rh, status := t.status }) ∧
  (∀ (s : State) (w : OpWord), w.extractLsb' 56 8 = 0x09#8 → w.extractLsb' 16 40 ≠ 0#40 →
    execWord w s = .next { s with status := s.status ||| 0x0800#16 }) ∧
  s32 (convRh 0#16) = 0#32 ∧ s32 (convRh 0xFFFF#16) = 0x0001869E#32 ∧ s32 (convRh 1#16) = 1#32 ∧
  s32 (convRh 0x7FFF#16) = 0x0000C34E#32 ∧ s32 (convRh 0x8000#16) = 0x0000C350#32

/-- FRM.MEAS: both halves are checked and reported; TEMP, RH and their valid bits are written from the two codes if and
only if both halves pass; nothing else changes, CRC included; only op[55:48] can make the word ILL_RSV (42_frame R77). -/
def Obligations.FrmMeasChecksBothHalvesAndConvertsIfBothPass : Prop :=
  (∀ f0 f1 f2 f3 f4 f5 : Byte,
    decode (0x0C00#16 ++ f0 ++ f1 ++ f2 ++ f3 ++ f4 ++ f5) = .ok (.frmMeas f0 f1 f2 f3 f4 f5)) ∧
  (∀ (s : State) (f0 f1 f2 f3 f4 f5 : Byte) (tOk rhOk : Bool),
    tOk = decide (crc8 [f0, f1] = f2) → rhOk = decide (crc8 [f3, f4] = f5) →
      ∃ t, exec (.frmMeas f0 f1 f2 f3 f4 f5) s = .next t ∧
        StatusWrites s.status t.status
          ([(1, tOk), (2, rhOk), (3, tOk && rhOk), (4, !(tOk && rhOk))] ++
            if tOk && rhOk then [(8, true), (9, true)] else []) ∧
        (tOk = true → rhOk = true →
          t.temp.toInt = (21875 * (f0.toNat * 256 + f1.toNat) : Int) / 8192 - 45000 ∧
          t.rh.toInt = (12500 * (f3.toNat * 256 + f4.toNat) : Int) / 8192 ∧
          t = { s with status := t.status, temp := t.temp, rh := t.rh }) ∧
        ((tOk && rhOk) = false → t = { s with status := t.status })) ∧
  (∀ (s : State) (w : OpWord), w.extractLsb' 56 8 = 0x0C#8 → w.extractLsb' 48 8 ≠ 0#8 →
    execWord w s = .next { s with status := s.status ||| 0x0800#16 }) ∧
  crc8 [0x00#8, 0x00#8] ≠ 0x00#8 ∧ crc8 [0xFF#8, 0xFF#8] ≠ 0xFF#8 ∧
  exec (.frmMeas 0x68#8 0x3A#8 0xFD#8 0x80#8 0x00#8 0xA2#8) State.reset =
    .next { State.reset with status := 0x030E#16, temp := 26248#32, rh := 50000#32 }

/-- FRM.ID: ID_CRC_OK, SIG_OK and PRESENT, SIG_OK computed even when the CRC fails, from the low 5 bits of the second byte
alone; nothing else changes, CRC included; a 1 in op[55:24] is ILL_RSV (42_frame R78). -/
def Obligations.FrmIdChecksCrcAndSignature : Prop :=
  (∀ i0 i1 c : Byte, decode (0x0D00000000#40 ++ i0 ++ i1 ++ c) = .ok (.frmId i0 i1 c)) ∧
  (∀ (s : State) (i0 i1 c : Byte) (idc sig : Bool),
    idc = decide (crc8 [i0, i1] = c) → sig = decide (i1.toNat % 32 = 7) →
      ∃ t, exec (.frmId i0 i1 c) s = .next t ∧
        StatusWrites s.status t.status [(5, idc), (6, sig), (7, idc && sig)] ∧
        t = { s with status := t.status }) ∧
  (∀ (s : State) (w : OpWord), w.extractLsb' 56 8 = 0x0D#8 → w.extractLsb' 24 32 ≠ 0#32 →
    execWord w s = .next { s with status := s.status ||| 0x0800#16 }) ∧
  exec (.frmId 0x00#8 0x47#8 0x2B#8) State.reset = .next { State.reset with status := 0x00E0#16 }

/-! ### The conversions as functions -/

/-- The numeric contract: no product overflows 32-bit signed, the ranges are attained, and a result stored as `s32` reads
back as the exact integer (41_convert R70). -/
def Obligations.ConversionsFitAndAreExact : Prop :=
  (∀ code : Code,
    21875 * code.toNat ≤ 1433578125 ∧ 12500 * code.toNat ≤ 819187500 ∧
    (21875 * code.toNat) >>> 13 ≤ 174997 ∧
    -45000 ≤ convT code ∧ convT code ≤ 129997 ∧ 0 ≤ convRh code ∧ convRh code ≤ 99998 ∧
    (s32 (convT code)).toInt = convT code ∧ (s32 (convRh code)).toInt = convRh code) ∧
  1433578125 < 2 ^ 31 ∧ 819187500 < 2 ^ 30 ∧
  convT 0#16 = -45000 ∧ convT 0xFFFF#16 = 129997 ∧ convRh 0#16 = 0 ∧ convRh 0xFFFF#16 = 99998 ∧
  s32 (-45000) = 0xFFFF5038#32

/-- The results are the ideal T = 175*S/65536 - 45 and RH = 100*S/65536, scaled by 1000 and rounded down: short of the
ideal by less than one unit (41_convert R68, R71). -/
def Obligations.ConversionsFloorTheIdealFormulas : Prop :=
  ∀ code : Code,
    (0 ≤ (1000 * (175 * (code.toNat : ℚ) / 65536 - 45)) - (convT code : ℚ) ∧
      (1000 * (175 * (code.toNat : ℚ) / 65536 - 45)) - (convT code : ℚ) < 1) ∧
    (0 ≤ (1000 * (100 * (code.toNat : ℚ) / 65536)) - (convRh code : ℚ) ∧
      (1000 * (100 * (code.toNat : ℚ) / 65536)) - (convRh code : ℚ) < 1)

/-- Both conversions are non-decreasing, with steps of 2 or 3 and of 1 or 2, so some values are never produced (41_convert
R74). -/
def Obligations.ConversionsRiseInSmallSteps : Prop :=
  (∀ a b : Code, a.toNat ≤ b.toNat → convT a ≤ convT b ∧ convRh a ≤ convRh b) ∧
  (∀ a b : Code, b.toNat = a.toNat + 1 →
    (convT b - convT a = 2 ∨ convT b - convT a = 3) ∧ (convRh b - convRh a = 1 ∨ convRh b - convRh a = 2)) ∧
  (∀ a : Code, convT a ≠ 0 ∧ convRh a ≠ 100000 ∧ convRh a ≤ 99998) ∧
  convT 16852#16 = -1 ∧ convT 16853#16 = 2 ∧ convRh 0xFFFF#16 = 99998 ∧
  convT 0x8000#16 = 42500 ∧ convRh 0x4000#16 = 25000

/-! ### Streams and frames -/

/-- CRC.INIT followed by one CRC.BYTE per byte leaves the CRC of those bytes in CRC, for every number of bytes, and changes
nothing else; with the short sequences of the rule (40_crc R65). -/
def Obligations.StreamedBytesLeaveTheirCrc : Prop :=
  (∀ (data : List Byte) (s : State),
    execAll (.crcInit :: data.map .crcByte) s = .next { s with crc := crc8 data }) ∧
  crc8 [] = 0xFF#8 ∧ crc8 [0x00#8] = 0xAC#8 ∧ crc8 [0xFF#8] = 0x00#8

/-- The pseudo-instructions: `crc.seq` leaves the CRC of its bytes in CRC, `crc.verify` also whether it equals the operand
in CRC_OK, `cvt.both` converts its two codes; on two bytes they do what `crc.pair` and `crc.vfy` do (30_encoding R50). -/
def Obligations.PseudoInstructionsDoWhatTheySay : Prop :=
  (∀ (data : List Byte) (s : State),
    assembleLine (.crcSeq (data.map BitVec.toNat)) = some ((Instr.crcInit :: data.map Instr.crcByte).map encode) ∧
    execWords ((Instr.crcInit :: data.map Instr.crcByte).map encode) s = .next { s with crc := crc8 data }) ∧
  (∀ (c : Byte) (data : List Byte) (s : State),
    assembleLine (.crcVerify c.toNat (data.map BitVec.toNat)) =
      some ((Instr.crcInit :: data.map Instr.crcByte ++ [Instr.crcChk c]).map encode) ∧
    ∃ t, execWords ((Instr.crcInit :: data.map Instr.crcByte ++ [Instr.crcChk c]).map encode) s = .next t ∧
      StatusWrites s.status t.status [(0, decide (crc8 data = c))] ∧
      t = { s with crc := crc8 data, status := t.status }) ∧
  (∀ (a b : Code) (s : State),
    assembleLine (.cvtBoth a.toNat b.toNat) = some ([Instr.cvtT a, Instr.cvtRh b].map encode) ∧
    execWords ([Instr.cvtT a, Instr.cvtRh b].map encode) s = execAll [.cvtT a, .cvtRh b] s) ∧
  (∀ (d0 d1 c : Byte) (s : State),
    execAll [.crcInit, .crcByte d0, .crcByte d1] s = exec (.crcPair d0 d1) s ∧
    execAll [.crcInit, .crcByte d0, .crcByte d1, .crcChk c] s = exec (.crcVfy d0 d1 c) s)

/-- FRM.MEAS, FRM.ID, CVT.T, CVT.RH and NOP may stand anywhere among CRC operations: the CRC and the CRC_OK at the end are
those of the sequence without them (42_frame R81, 70 R116). -/
def Obligations.OtherOperationsDoNotDisturbACrcStream : Prop :=
  ∀ (is : List Instr) (s : State), ∃ t u,
    execAll is s = .next t ∧ execAll (is.filter touchesStream) s = .next u ∧
      t.crc = u.crc ∧ t.status.getLsbD 0 = u.status.getLsbD 0

/-- The frame operations do not read CRC and leave it unchanged: with any other value in CRC they do the same (42_frame
R81). -/
def Obligations.FrameOperationsNeitherReadNorWriteCrc : Prop :=
  ∀ (i : Instr) (s : State) (c : Byte), i.opcode ∈ [.frmMeas, .frmId] →
    ∃ t, exec i s = .next t ∧ t.crc = s.crc ∧ exec i { s with crc := c } = .next { t with crc := c }

/-- Take a frame that FRM.MEAS accepts and change exactly one of its six bytes: it is rejected, and the half that holds the
byte has its `_OK` bit 0. A valid identification frame with one byte changed has ID_CRC_OK = 0 (42_frame R80). -/
def Obligations.OneChangedByteOfAFrameIsDetected : Prop :=
  (∀ (f g : RawFrame) (s : State),
    f.tHalf.passes = true → f.rhHalf.passes = true →
    (bytesChanged f.tHalf g.tHalf = 1 → bytesChanged f.rhHalf g.rhHalf = 0 →
      ∃ t, exec g.operation s = .next t ∧ t.status.getLsbD 4 = true ∧ t.status.getLsbD 1 = false) ∧
    (bytesChanged f.tHalf g.tHalf = 0 → bytesChanged f.rhHalf g.rhHalf = 1 →
      ∃ t, exec g.operation s = .next t ∧ t.status.getLsbD 4 = true ∧ t.status.getLsbD 2 = false)) ∧
  (∀ (f g : IdFrame) (s : State), f.half.passes = true → bytesChanged f.half g.half = 1 →
    ∃ t, exec g.operation s = .next t ∧ t.status.getLsbD 5 = false)

/-- After a rejected frame TEMP, RH and their valid bits are those from before it (70 R117). -/
def Obligations.RejectedFrameLeavesEarlierResults : Prop :=
  ∀ (f0 f1 f2 f3 f4 f5 : Byte) (s t : State),
    exec (.frmMeas f0 f1 f2 f3 f4 f5) s = .next t → t.status.getLsbD 4 = true →
      t.temp = s.temp ∧ t.rh = s.rh ∧ t.status.getLsbD 8 = s.status.getLsbD 8 ∧
      t.status.getLsbD 9 = s.status.getLsbD 9 ∧ t.status.getLsbD 3 = false

/-! ### The driver around the block -/

/-- A measurement returns the converted values if both checks pass, `BadData` if not, and a transport error verbatim, then
without an operation issued; the bus actions are those of the procedure (60 R98, R99). -/
def Obligations.BlockingMeasurementReturnsTheFramesResult : Prop :=
  ∀ (ε : Type) (e : ε) (f : RawFrame) (s : State) (answer : Except ε RawFrame) (written : Except ε Unit),
    (readLpmSync written answer s).result = (readHpmSync written answer s).result ∧
    (readLpmSync written answer s).issued = (readHpmSync written answer s).issued ∧
    (readLpmSync written answer s).block = (readHpmSync written answer s).block ∧
    (readHpmSync (.error e) answer s).result = .transportError e ∧
    (readHpmSync (.error e) answer s).issued = [] ∧
    (readHpmSync (.error e) answer s).bus = [.write 0x70#7 [0x7C#8, 0xA2#8] false] ∧
    (readHpmSync (.ok ()) (.error e) s).result = .transportError e ∧
    (readHpmSync (.ok ()) (.error e) s).issued = [] ∧
    (readHpmSync (.ok ()) answer s).bus =
      [.write 0x70#7 [0x7C#8, 0xA2#8] false, .delay Config.convWait, .read 0x70#7 6] ∧
    (readLpmSync (.error e) answer s).bus = [.write 0x70#7 [0x64#8, 0x58#8] false] ∧
    (readLpmSync (.ok ()) answer s).bus =
      [.write 0x70#7 [0x64#8, 0x58#8] false, .delay Config.convWait, .read 0x70#7 6] ∧
    (readHpmSync (.ok ()) (.ok f : Except ε RawFrame) s).issued = [f.operation] ∧
    (readHpmSync (.ok ()) (.ok f : Except ε RawFrame) s).block = issue f.operation s ∧
    ((crc8 [f.tMsb, f.tLsb] = f.tCrc ∧ crc8 [f.rhMsb, f.rhLsb] = f.rhCrc) →
      ∃ temp rh, (readHpmSync (.ok ()) (.ok f : Except ε RawFrame) s).result = .ok temp rh ∧
        temp.toInt = (21875 * (f.tMsb.toNat * 256 + f.tLsb.toNat) : Int) / 8192 - 45000 ∧
        rh.toInt = (12500 * (f.rhMsb.toNat * 256 + f.rhLsb.toNat) : Int) / 8192) ∧
    (¬(crc8 [f.tMsb, f.tLsb] = f.tCrc ∧ crc8 [f.rhMsb, f.rhLsb] = f.rhCrc) →
      (readHpmSync (.ok ()) (.ok f : Except ε RawFrame) s).result = .badData)

/-- The same frame gives the same result and the same block state whichever procedure read it, in either mode (42_frame R79,
60 R100). -/
def Obligations.MeasurementModeDoesNotMatter : Prop :=
  ∀ (ε : Type) (f : RawFrame) (s : State),
    (readLpmSync (.ok ()) (.ok f : Except ε RawFrame) s).result =
      (readHpmSync (.ok ()) (.ok f : Except ε RawFrame) s).result ∧
    (readAsyncResult (.ok f : Except ε RawFrame) s).result =
      (readHpmSync (.ok ()) (.ok f : Except ε RawFrame) s).result ∧
    (readLpmSync (.ok ()) (.ok f : Except ε RawFrame) s).block =
      (readHpmSync (.ok ()) (.ok f : Except ε RawFrame) s).block ∧
    (readAsyncResult (.ok f : Except ε RawFrame) s).block =
      (readHpmSync (.ok ()) (.ok f : Except ε RawFrame) s).block

/-- The probe ignores the write's status, answers false when the read fails, and otherwise answers whether the CRC and the
signature of the identification frame are right (60 R102). -/
def Obligations.ProbeAnswersTheFramesVerdict : Prop :=
  ∀ (ε : Type) (e : ε) (f : IdFrame) (s : State) (written : Except ε Unit),
    (probe written (.error e) s).result = false ∧
    (probe written (.error e) s).issued = [] ∧ (probe written (.error e) s).block = s ∧
    (probe written (.ok f) s).bus =
      [.write 0x70#7 [0xEF#8, 0xC8#8] false, .delay Config.convWait, .read 0x70#7 3] ∧
    (probe written (.error e) s).bus =
      [.write 0x70#7 [0xEF#8, 0xC8#8] false, .delay Config.convWait, .read 0x70#7 3] ∧
    (probe written (.ok f) s).issued = [f.operation] ∧
    (probe written (.ok f) s).result =
      decide (crc8 [f.idMsb, f.idLsb] = f.idCrc ∧ f.idLsb.toNat % 32 = 7)

/-- The start of a measurement and the sensor's soft reset are one write each: they return the transport's status, issue no
operation and leave the block as it is (60 R100, R101). -/
def Obligations.StartAndSoftResetIssueNoOperation : Prop :=
  ∀ (ε : Type) (written : Except ε Unit) (s : State),
    readHpmAsync written s = ⟨[.write 0x70#7 [0x78#8, 0x66#8] false], [], s, written⟩ ∧
    readLpmAsync written s = ⟨[.write 0x70#7 [0x60#8, 0x9C#8] false], [], s, written⟩ ∧
    resetSensor written s = ⟨[.write 0x70#7 [0x80#8, 0x5D#8] true], [], s, written⟩
end

