-- ==== Sys2Proof/Laws/Decode.lean ====
section
/-!
SUPPORT. What the decoder can answer, said once (30_encoding R45): by the row of the opcode map, if there is one.
-/

namespace Sys2Proof

/-- The row of a defined opcode is found. -/
theorem lookup_of_row {b : Byte} {o : Opcode} {f : Format} (h : (b, o, f) ∈ opcodeMap) :
    opcodeMap.lookup b = some (o, f) := by
  have noOpcodeTwice : ∀ row ∈ opcodeMap, opcodeMap.lookup row.1 = some row.2 := by decide
  exact noOpcodeTwice _ h

/-- What is found is a row. -/
theorem row_of_lookup {b : Byte} {o : Opcode} {f : Format} (h : opcodeMap.lookup b = some (o, f)) :
    (b, o, f) ∈ opcodeMap := by
  have general : ∀ l : List (Byte × Opcode × Format), l.lookup b = some (o, f) → (b, o, f) ∈ l := by
    intro l
    induction l with
    | nil => intro h; cases h
    | cons row rest ih =>
      intro h
      rw [List.lookup_cons] at h
      split at h
      · rename_i e
        have hb : b = row.1 := eq_of_beq e
        have hr : row.2 = (o, f) := Option.some.inj h
        have hrow : (b, o, f) = row := by rw [hb, ← hr]
        exact hrow ▸ List.mem_cons_self
      · exact List.mem_cons_of_mem _ (ih h)
  exact general _ h

/-- A word with a defined opcode decodes by its row: the reserved bits decide. -/
theorem decode_of_row {w : OpWord} {o : Opcode} {f : Format} (h : (opcodeField w, o, f) ∈ opcodeMap) :
    decode w = if w &&& reservedMask f = 0#64 then .ok (readOperands o w) else .error .illRsv := by
  simp only [decode, lookup_of_row h]

/-- THE CASES OF THE DECODER: no row, or a row and its reserved bits. -/
theorem decode_cases (w : OpWord) :
    (opcodeMap.lookup (opcodeField w) = none ∧ decode w = .error .illOpc) ∨
    ∃ o f, (opcodeField w, o, f) ∈ opcodeMap ∧
      ((w &&& reservedMask f = 0#64 ∧ decode w = .ok (readOperands o w)) ∨
       (w &&& reservedMask f ≠ 0#64 ∧ decode w = .error .illRsv)) := by
  rcases h : opcodeMap.lookup (opcodeField w) with _ | ⟨o, f⟩
  · left; simp only [decode, h, and_self]
  · right
    have m := row_of_lookup h
    refine ⟨o, f, m, ?_⟩
    by_cases z : w &&& reservedMask f = 0#64
    · left; simp only [decode_of_row m, z, if_true, and_self]
    · right; simp only [decode_of_row m, z, if_false, not_false_iff, ne_eq, and_self]

/-- The operation a row's word is read as has the row's opcode. -/
@[simp] theorem readOperands_opcode (o : Opcode) (w : OpWord) : (readOperands o w).opcode = o := by
  cases o <;> rfl

end Sys2Proof
end

