-- ==== Sys2Proof/Laws/State.lean ====
section
/-!
SUPPORT. Beside State: one lemma per field per update, each true by rfl, so that no proof unfolds a record
update; and the equation of each two-state reading.
-/

namespace Sys2Proof.Machine

section
variable (s : State) (v : Byte) (f : Flag) (b : Bool) (r : Result) (w : OpWord) (ms : List HostMove)

@[simp] theorem writeCrc_crc : (writeCrc v s).crc = v := rfl
@[simp] theorem writeCrc_status : (writeCrc v s).status = s.status := rfl
@[simp] theorem writeCrc_temp : (writeCrc v s).temp = s.temp := rfl
@[simp] theorem writeCrc_rh : (writeCrc v s).rh = s.rh := rfl
@[simp] theorem writeCrc_inFlight : (writeCrc v s).inFlight = s.inFlight := rfl
@[simp] theorem writeCrc_host : (writeCrc v s).host = s.host := rfl

@[simp] theorem setFlag_crc : (setFlag f b s).crc = s.crc := rfl
@[simp] theorem setFlag_status : (setFlag f b s).status = putFlag f b s.status := rfl
@[simp] theorem setFlag_temp : (setFlag f b s).temp = s.temp := rfl
@[simp] theorem setFlag_rh : (setFlag f b s).rh = s.rh := rfl
@[simp] theorem setFlag_inFlight : (setFlag f b s).inFlight = s.inFlight := rfl
@[simp] theorem setFlag_host : (setFlag f b s).host = s.host := rfl

@[simp] theorem writeTemp_crc : (writeTemp r s).crc = s.crc := rfl
@[simp] theorem writeTemp_status : (writeTemp r s).status = putFlag .tValid true s.status := rfl
@[simp] theorem writeTemp_temp : (writeTemp r s).temp = r := rfl
@[simp] theorem writeTemp_rh : (writeTemp r s).rh = s.rh := rfl
@[simp] theorem writeTemp_inFlight : (writeTemp r s).inFlight = s.inFlight := rfl
@[simp] theorem writeTemp_host : (writeTemp r s).host = s.host := rfl

@[simp] theorem writeRh_crc : (writeRh r s).crc = s.crc := rfl
@[simp] theorem writeRh_status : (writeRh r s).status = putFlag .rhValid true s.status := rfl
@[simp] theorem writeRh_temp : (writeRh r s).temp = s.temp := rfl
@[simp] theorem writeRh_rh : (writeRh r s).rh = r := rfl
@[simp] theorem writeRh_inFlight : (writeRh r s).inFlight = s.inFlight := rfl
@[simp] theorem writeRh_host : (writeRh r s).host = s.host := rfl

@[simp] theorem setHost_crc : (setHost ms s).crc = s.crc := rfl
@[simp] theorem setHost_status : (setHost ms s).status = s.status := rfl
@[simp] theorem setHost_temp : (setHost ms s).temp = s.temp := rfl
@[simp] theorem setHost_rh : (setHost ms s).rh = s.rh := rfl
@[simp] theorem setHost_inFlight : (setHost ms s).inFlight = s.inFlight := rfl
@[simp] theorem setHost_host : (setHost ms s).host = ms := rfl

@[simp] theorem acceptWord_crc : (acceptWord w s).crc = s.crc := rfl
@[simp] theorem acceptWord_status : (acceptWord w s).status = s.status := rfl
@[simp] theorem acceptWord_temp : (acceptWord w s).temp = s.temp := rfl
@[simp] theorem acceptWord_rh : (acceptWord w s).rh = s.rh := rfl
@[simp] theorem acceptWord_inFlight : (acceptWord w s).inFlight = some w := rfl
@[simp] theorem acceptWord_host : (acceptWord w s).host = s.host := rfl

@[simp] theorem clearInFlight_crc : (clearInFlight s).crc = s.crc := rfl
@[simp] theorem clearInFlight_status : (clearInFlight s).status = s.status := rfl
@[simp] theorem clearInFlight_temp : (clearInFlight s).temp = s.temp := rfl
@[simp] theorem clearInFlight_rh : (clearInFlight s).rh = s.rh := rfl
@[simp] theorem clearInFlight_inFlight : (clearInFlight s).inFlight = none := rfl
@[simp] theorem clearInFlight_host : (clearInFlight s).host = s.host := rfl

@[simp] theorem resetBlock_crc : (resetBlock s).crc = 0xFF#8 := rfl
@[simp] theorem resetBlock_status : (resetBlock s).status = 0#16 := rfl
@[simp] theorem resetBlock_temp : (resetBlock s).temp = 0#32 := rfl
@[simp] theorem resetBlock_rh : (resetBlock s).rh = 0#32 := rfl
@[simp] theorem resetBlock_inFlight : (resetBlock s).inFlight = none := rfl
@[simp] theorem resetBlock_host : (resetBlock s).host = s.host := rfl

end

section
variable (s : State) (c : Byte) (st : StatusWord) (t h : Result)

@[simp] theorem powerUpBlock_crc : (powerUpBlock c st t h s).crc = c := rfl
@[simp] theorem powerUpBlock_status : (powerUpBlock c st t h s).status = st &&& statusNamedMask := rfl
@[simp] theorem powerUpBlock_temp : (powerUpBlock c st t h s).temp = t := rfl
@[simp] theorem powerUpBlock_rh : (powerUpBlock c st t h s).rh = h := rfl
@[simp] theorem powerUpBlock_inFlight : (powerUpBlock c st t h s).inFlight = none := rfl
@[simp] theorem powerUpBlock_host : (powerUpBlock c st t h s).host = s.host := rfl

end

section
variable (s : State) (p q : Bool) (cause : IllegalCause) (f : IdFrame)

@[simp] theorem setFrameVerdict_crc : (setFrameVerdict p q s).crc = s.crc := rfl
@[simp] theorem setFrameVerdict_temp : (setFrameVerdict p q s).temp = s.temp := rfl
@[simp] theorem setFrameVerdict_rh : (setFrameVerdict p q s).rh = s.rh := rfl
@[simp] theorem setFrameVerdict_inFlight : (setFrameVerdict p q s).inFlight = s.inFlight := rfl
@[simp] theorem setFrameVerdict_host : (setFrameVerdict p q s).host = s.host := rfl

@[simp] theorem setIdVerdict_crc : (setIdVerdict p q s).crc = s.crc := rfl
@[simp] theorem setIdVerdict_temp : (setIdVerdict p q s).temp = s.temp := rfl
@[simp] theorem setIdVerdict_rh : (setIdVerdict p q s).rh = s.rh := rfl
@[simp] theorem setIdVerdict_inFlight : (setIdVerdict p q s).inFlight = s.inFlight := rfl
@[simp] theorem setIdVerdict_host : (setIdVerdict p q s).host = s.host := rfl

@[simp] theorem takeIllegalOp_crc : (takeIllegalOp cause s).crc = s.crc := rfl
@[simp] theorem takeIllegalOp_temp : (takeIllegalOp cause s).temp = s.temp := rfl
@[simp] theorem takeIllegalOp_rh : (takeIllegalOp cause s).rh = s.rh := rfl
@[simp] theorem takeIllegalOp_inFlight : (takeIllegalOp cause s).inFlight = s.inFlight := rfl
@[simp] theorem takeIllegalOp_host : (takeIllegalOp cause s).host = s.host := rfl
@[simp] theorem takeIllegalOp_status :
    (takeIllegalOp cause s).status = putFlag (causeFlag cause) true s.status := rfl

@[simp] theorem checkIdentification_crc : (checkIdentification f s).crc = s.crc := rfl
@[simp] theorem checkIdentification_temp : (checkIdentification f s).temp = s.temp := rfl
@[simp] theorem checkIdentification_rh : (checkIdentification f s).rh = s.rh := rfl
@[simp] theorem checkIdentification_inFlight : (checkIdentification f s).inFlight = s.inFlight := rfl
@[simp] theorem checkIdentification_host : (checkIdentification f s).host = s.host := rfl

end

/-- A block with nothing in flight is unchanged by clearing it. -/
theorem clearInFlight_of_none {s : State} (h : s.inFlight = none) : clearInFlight s = s := by
  cases s; cases h; rfl

end Sys2Proof.Machine
end

