-- ==== Sys2Proof/Laws/Flags.lean ====
section
/-!
SUPPORT. STATUS bit by bit: a written flag reads as written, every other bit as before (10_state R17).
-/

namespace Sys2Proof.Machine

theorem flag_bit_lt (f : Flag) : f.bit < 12 := by cases f <;> decide

theorem flag_bit_injective {f g : Flag} (h : f.bit = g.bit) : f = g := by
  cases f <;> cases g <;> first | rfl | (exact absurd h (by decide))

/-- The bit of `n` in the mask of `f`. -/
theorem flagMask_bit (f : Flag) (n : Nat) : (flagMask f).getLsbD n = decide (n = f.bit) := by
  have h := flag_bit_lt f
  by_cases e : n = f.bit
  · subst e
    have : f.bit < 16 := by omega
    simp [flagMask, this]
  · simp only [flagMask, BitVec.getLsbD_shiftLeft, BitVec.getLsbD_one, e, decide_false]
    simp only [Bool.and_eq_false_iff, Bool.not_eq_false', decide_eq_true_eq, decide_eq_false_iff_not]
    omega

/-- THE LAW of `putFlag`: every bit of the word after it. -/
theorem putFlag_bit (f : Flag) (b : Bool) (w : StatusWord) (n : Nat) :
    (putFlag f b w).getLsbD n = if n = f.bit then b else w.getLsbD n := by
  have h := flag_bit_lt f
  cases b <;> by_cases e : n = f.bit
  · have : f.bit < 16 := by omega
    simp [putFlag, flagMask_bit, e]
  · by_cases hn : n < 16
    · simp only [putFlag, Bool.false_eq_true, if_false, BitVec.getLsbD_and, BitVec.getLsbD_not, flagMask_bit]
      simp [e, hn]
    · have : 16 ≤ n := by omega
      simp [putFlag, e, BitVec.getLsbD_of_ge, this]
  · simp [putFlag, flagMask_bit, e]
  · simp [putFlag, flagMask_bit, e]

/-- The same law in the indexed form that simp leaves for a literal bit number. -/
theorem putFlag_getElem (f : Flag) (b : Bool) (w : StatusWord) (n : Nat) (h : n < 16) :
    (putFlag f b w)[n] = if n = f.bit then b else w[n] := by
  simpa only [BitVec.getLsbD_eq_getElem h] using putFlag_bit f b w n

@[simp] theorem getFlag_putFlag_same (f : Flag) (b : Bool) (w : StatusWord) :
    getFlag (putFlag f b w) f = b := by
  simp [getFlag, putFlag_bit]

theorem getFlag_putFlag_other {f g : Flag} (h : g ≠ f) (b : Bool) (w : StatusWord) :
    getFlag (putFlag f b w) g = getFlag w g := by
  have : g.bit ≠ f.bit := fun e => h (flag_bit_injective e)
  simp [getFlag, putFlag_bit, this]

/-- The reserved bits are written by no flag (10_state R16). -/
@[simp] theorem putFlag_reserved (f : Flag) (b : Bool) (w : StatusWord) :
    putFlag f b w &&& 0xF000#16 = w &&& 0xF000#16 := by
  apply BitVec.eq_of_getLsbD_eq
  intro n hn
  have hf := flag_bit_lt f
  simp only [BitVec.getLsbD_and, putFlag_bit]
  by_cases e : n = f.bit
  · have hz : (0xF000#16).getLsbD f.bit = false := by cases f <;> decide
    simp [e, hz]
  · simp [e]

/-- The bits of the readable mask. -/
theorem statusNamedMask_bit (n : Nat) : statusNamedMask.getLsbD n = decide (n < 12) := by
  by_cases h : n < 16
  · revert h; revert n; decide
  · have h16 : 16 ≤ n := by omega
    have h12 : ¬ n < 12 := by omega
    simp [statusNamedMask, BitVec.getLsbD_of_ge, h16, h12]

/-- A named flag reads the same through the port's mask. -/
theorem getFlag_statusRegister (s : State) (f : Flag) : getFlag (statusRegister s) f = s.flag f := by
  simp [getFlag, statusRegister, State.flag, statusNamedMask_bit, flag_bit_lt]

end Sys2Proof.Machine
end

