-- ==== Sys2Proof/Laws/Ops.lean ====
section
/-!
SUPPORT. One lemma per shared operation that says everything it does, bit by bit of STATUS and field by
field; proofs cite these and do not unfold the operations.
-/

namespace Sys2Proof.Machine

/-- Everything `setFlag` does. -/
theorem setFlag_spec (f : Flag) (b : Bool) (s : State) :
    setFlag f b s = { s with status := putFlag f b s.status } := rfl

/-- Everything `writeTemp` does (10_state R18). -/
theorem writeTemp_spec (v : Result) (s : State) :
    writeTemp v s = { s with temp := v, status := putFlag .tValid true s.status } := rfl

/-- Everything `writeRh` does (10_state R19). -/
theorem writeRh_spec (v : Result) (s : State) :
    writeRh v s = { s with rh := v, status := putFlag .rhValid true s.status } := rfl

/-- `setFrameVerdict` writes STATUS alone. -/
theorem setFrameVerdict_frame (tOk rhOk : Bool) (s : State) :
    setFrameVerdict tOk rhOk s = { s with status := (setFrameVerdict tOk rhOk s).status } := rfl

/-- Every bit of STATUS after `setFrameVerdict` (42_frame R77). -/
theorem setFrameVerdict_bit (tOk rhOk : Bool) (s : State) (n : Nat) :
    (setFrameVerdict tOk rhOk s).status.getLsbD n =
      if n = 4 then !(tOk && rhOk) else if n = 3 then tOk && rhOk
      else if n = 2 then rhOk else if n = 1 then tOk else s.status.getLsbD n := by
  simp only [setFrameVerdict, setFlag_status, putFlag_bit, Flag.bit]
  rfl

/-- The same in indexed form. -/
theorem setFrameVerdict_getElem (tOk rhOk : Bool) (s : State) (n : Nat) (h : n < 16) :
    (setFrameVerdict tOk rhOk s).status[n] =
      if n = 4 then !(tOk && rhOk) else if n = 3 then tOk && rhOk
      else if n = 2 then rhOk else if n = 1 then tOk else s.status[n] := by
  simpa only [BitVec.getLsbD_eq_getElem h] using setFrameVerdict_bit tOk rhOk s n

/-- `setIdVerdict` writes STATUS alone. -/
theorem setIdVerdict_frame (idc sig : Bool) (s : State) :
    setIdVerdict idc sig s = { s with status := (setIdVerdict idc sig s).status } := rfl

/-- Every bit of STATUS after `setIdVerdict` (42_frame R78). -/
theorem setIdVerdict_bit (idc sig : Bool) (s : State) (n : Nat) :
    (setIdVerdict idc sig s).status.getLsbD n =
      if n = 7 then idc && sig else if n = 6 then sig else if n = 5 then idc else s.status.getLsbD n := by
  simp only [setIdVerdict, setFlag_status, putFlag_bit, Flag.bit]
  rfl

/-- The same in indexed form. -/
theorem setIdVerdict_getElem (idc sig : Bool) (s : State) (n : Nat) (h : n < 16) :
    (setIdVerdict idc sig s).status[n] =
      if n = 7 then idc && sig else if n = 6 then sig else if n = 5 then idc else s.status[n] := by
  simpa only [BitVec.getLsbD_eq_getElem h] using setIdVerdict_bit idc sig s n

/-- Everything `takeIllegalOp` does: one sticky bit becomes 1 (60 R88). -/
theorem takeIllegalOp_spec (c : IllegalCause) (s : State) :
    takeIllegalOp c s = { s with status := putFlag (causeFlag c) true s.status } := rfl

/-- Every bit of STATUS after an illegal word (60 R88). -/
theorem takeIllegalOp_bit (c : IllegalCause) (s : State) (n : Nat) :
    (takeIllegalOp c s).status.getLsbD n =
      if n = (causeFlag c).bit then true else s.status.getLsbD n := by
  simp only [takeIllegalOp, setFlag_status, putFlag_bit]

/-- Everything a measurement frame does: the verdict, and the two results if both halves pass (42_frame R77). -/
theorem checkMeasurement_cases (f : RawFrame) (s : State) :
    (f.tHalf.passes = true ∧ f.rhHalf.passes = true ∧
      checkMeasurement f s = writeFrameResults f (setFrameVerdict true true s)) ∨
    ((f.tHalf.passes && f.rhHalf.passes) = false ∧
      checkMeasurement f s = setFrameVerdict f.tHalf.passes f.rhHalf.passes s) := by
  cases ht : f.tHalf.passes <;> cases hr : f.rhHalf.passes <;> simp [checkMeasurement, ht, hr]

/-- Everything an accepted frame writes besides its verdict. -/
theorem writeFrameResults_spec (f : RawFrame) (s : State) :
    writeFrameResults f s = { s with
      temp := s32 (convT f.tHalf.code), rh := s32 (convRh f.rhHalf.code),
      status := putFlag .rhValid true (putFlag .tValid true s.status) } := rfl

/-- The block keeps its moves and its handshake through a measurement frame. -/
@[simp] theorem checkMeasurement_host (f : RawFrame) (s : State) : (checkMeasurement f s).host = s.host := by
  rcases checkMeasurement_cases f s with ⟨-, -, h⟩ | ⟨-, h⟩ <;> rw [h] <;> rfl

@[simp] theorem checkMeasurement_inFlight (f : RawFrame) (s : State) :
    (checkMeasurement f s).inFlight = s.inFlight := by
  rcases checkMeasurement_cases f s with ⟨-, -, h⟩ | ⟨-, h⟩ <;> rw [h] <;> rfl

@[simp] theorem checkMeasurement_crc (f : RawFrame) (s : State) : (checkMeasurement f s).crc = s.crc := by
  rcases checkMeasurement_cases f s with ⟨-, -, h⟩ | ⟨-, h⟩ <;> rw [h] <;> rfl

end Sys2Proof.Machine
end

