-- ==== Sys2Proof/Laws/Exec.lean ====
section
/-!
SUPPORT. What `exec`, `execWord` and `step` can do, said once: the equation of every operation's meaning, and
the cases of a step.
-/

namespace Sys2Proof.Machine

section
variable (s : State)

theorem exec_nop : exec .nop s = .next s := rfl
theorem exec_crcInit : exec .crcInit s = .next (writeCrc crcInit s) := rfl
theorem exec_crcByte (b : Byte) : exec (.crcByte b) s = .next (writeCrc (crc8Update s.crc b) s) := rfl
theorem exec_crcChk (c : Byte) : exec (.crcChk c) s = .next (setFlag .crcOk (s.crc == c) s) := rfl
theorem exec_crcPair (d0 d1 : Byte) : exec (.crcPair d0 d1) s = .next (writeCrc (crc8 [d0, d1]) s) := rfl
theorem exec_crcVfy (d0 d1 c : Byte) :
    exec (.crcVfy d0 d1 c) s = .next (setFlag .crcOk (verify [d0, d1] c) (writeCrc (crc8 [d0, d1]) s)) := rfl
theorem exec_cvtT (c : Code) : exec (.cvtT c) s = .next (writeTemp (s32 (convT c)) s) := rfl
theorem exec_cvtRh (c : Code) : exec (.cvtRh c) s = .next (writeRh (s32 (convRh c)) s) := rfl
theorem exec_frmMeas (f0 f1 f2 f3 f4 f5 : Byte) :
    exec (.frmMeas f0 f1 f2 f3 f4 f5) s = .next (checkMeasurement ⟨f0, f1, f2, f3, f4, f5⟩ s) := rfl
theorem exec_frmId (i0 i1 c : Byte) :
    exec (.frmId i0 i1 c) s = .next (checkIdentification ⟨i0, i1, c⟩ s) := rfl

end

/-- The word of an operation runs it. -/
theorem execWord_of_ok {w : OpWord} {i : Instr} (h : decode w = .ok i) (s : State) :
    execWord w s = exec i s := by
  simp only [execWord, h]

/-- An illegal word takes the illegal-operation outcome. -/
theorem execWord_of_error {w : OpWord} {c : IllegalCause} (h : decode w = .error c) (s : State) :
    execWord w s = .next (takeIllegalOp c s) := by
  simp only [execWord, h]

/-- A block that is ready accepts and completes a word in one step. -/
theorem runWord_of_ready {s : State} (h : s.inFlight = none) (w : OpWord) : runWord w s = execWord w s := by
  have e : clearInFlight (acceptWord w s) = s := by cases s; cases h; rfl
  simp only [runWord, completeInFlight, acceptWord_inFlight, e]

/-- The host's next move, if there is one, neither asserts `rst` nor is a power-up. -/
def quietHost : List HostMove → Bool
  | [] => true
  | .drive rst _ _ :: _ => !rst
  | .powerUp _ _ _ _ :: _ => false

/-- THE CASES OF A STEP: power-up, reset, the completion of what was in flight, the operation offered, or idling. -/
theorem step_cases (s : State) :
    (∃ c st t h rest, s.host = .powerUp c st t h :: rest ∧
      step s = .next (powerUpBlock c st t h (setHost rest s))) ∨
    (∃ v w rest, s.host = .drive true v w :: rest ∧ step s = .next (resetBlock (setHost rest s))) ∨
    (∃ w, s.inFlight = some w ∧ quietHost s.host = true ∧ step s = execWord w (clearInFlight s)) ∨
    (∃ w rest, s.inFlight = none ∧ s.host = .drive false true w :: rest ∧
      step s = execWord w (setHost rest s)) ∨
    (s.inFlight = none ∧ ((s.host = [] ∧ step s = .next s) ∨
      ∃ w rest, s.host = .drive false false w :: rest ∧ step s = .next (setHost rest s))) := by
  rcases hf : s.inFlight with _ | w
  · rcases hh : s.host with _ | ⟨_ | ⟨_, _, _, _⟩, rest⟩
    · simp [step, transact, completeInFlight, hh, hf]
    · rename_i rst v w
      cases rst <;> cases v
      · simp [step, transact, driven, State.busy, hh, hf]
      · have hr : (setHost rest s).inFlight = none := hf
        simp [step, transact, driven, State.busy, hh, hf, runWord_of_ready hr]
      · simp [step, transact, driven, hh]
      · simp [step, transact, driven, hh]
    · simp [step, transact, hh]
  · rcases hh : s.host with _ | ⟨_ | ⟨_, _, _, _⟩, rest⟩
    · simp [step, transact, completeInFlight, hh, hf, quietHost]
    · rename_i rst v w'
      cases rst
      · simp [step, transact, driven, State.busy, completeInFlight, hh, hf, quietHost]
      · simp [step, transact, driven, hh]
    · simp [step, transact, hh]

end Sys2Proof.Machine
end

