-- ==== Sys2Proof/Laws/PerInstr.lean ====
section
/-!
SUPPORT. The family EncodedFields: the word of an operation carries its opcode byte in op[63:56] and no bit of its
format's reserved mask (30_encoding R40, R44, R49), one lemma per operation.
-/

namespace Sys2Proof.Laws.EncodedFields

/-- The opcode field of the encoded word is the operation's opcode, and its reserved bits are 0. -/
def Statement (i : Instr) : Prop :=
  opcodeField (encode i) = i.opcode.byte ∧ encode i &&& reservedMask i.opcode.format = 0#64

/-- Bits of a placed byte. -/
theorem placeByte_bit (v : Byte) (lo n : Nat) :
    (placeByte v lo).getLsbD n = (decide (n < 64) && (decide (lo ≤ n) && v.getLsbD (n - lo))) := by
  simp only [placeByte, BitVec.getLsbD_shiftLeft, BitVec.getLsbD_setWidth]
  by_cases h : n < 64 <;> by_cases g : lo ≤ n
  · have : n - lo < 64 := by omega
    have g' : ¬ n < lo := by omega
    simp [h, g, g', this]
  · have g' : n < lo := by omega
    simp [g, g']
  · simp [h]
  · simp [h]

/-- Bits of an encoded word: the opcode byte above, the payload below. -/
theorem encode_bit (i : Instr) (n : Nat) :
    (encode i).getLsbD n = ((placeByte i.opcode.byte 56).getLsbD n || (encodePayload i).getLsbD n) := by
  simp only [encode, BitVec.getLsbD_or]

/-- How many low bits of the word a format's operands take (30_encoding R41). -/
def operandBits : Format → Nat
  | .n => 0
  | .b => 8
  | .p2 => 16
  | .p3 => 24
  | .s => 16
  | .f6 => 48

/-- The reserved mask is the bits between the operands and the opcode (30_encoding R44). -/
theorem reservedMask_bit (f : Format) (n : Nat) :
    (reservedMask f).getLsbD n = (decide (operandBits f ≤ n) && decide (n < 56)) := by
  by_cases h : n < 64
  · revert n; cases f <;> decide
  · have h64 : 64 ≤ n := by omega
    have h56 : ¬ n < 56 := by omega
    simp [BitVec.getLsbD_of_ge, h64, h56]

/-- A placed byte has no bit beyond its field. -/
theorem placeByte_above (v : Byte) {lo n : Nat} (h : lo + 8 ≤ n) : (placeByte v lo).getLsbD n = false := by
  have : 8 ≤ n - lo := by omega
  simp [placeByte_bit, BitVec.getLsbD_of_ge, this]

/-- An operation whose payload has no bit beyond its format's operands is encoded cleanly. -/
theorem statement_of_payload (i : Instr)
    (h : ∀ n, operandBits i.opcode.format ≤ n → (encodePayload i).getLsbD n = false) : Statement i := by
  have le48 : operandBits i.opcode.format ≤ 48 := by cases i.opcode.format <;> decide
  constructor
  · apply BitVec.eq_of_getLsbD_eq
    intro n hn
    have z := h (56 + n) (by omega)
    have hn' : 56 + n < 64 := by omega
    rw [opcodeField, BitVec.getLsbD_extractLsb', encode_bit, placeByte_bit, z]
    simp [hn, hn']
  · apply BitVec.eq_of_getLsbD_eq
    intro n hn
    rw [BitVec.getLsbD_and, encode_bit, placeByte_bit, reservedMask_bit, BitVec.getLsbD_zero]
    by_cases g : operandBits i.opcode.format ≤ n
    · by_cases l : n < 56
      · have l' : ¬ 56 ≤ n := by omega
        simp [h n g, l']
      · simp [l]
    · simp [g]

theorem nop : Statement (.nop) :=
  statement_of_payload _ fun n _ => by
    simp [encodePayload]

theorem crcInit : Statement (.crcInit) :=
  statement_of_payload _ fun n _ => by
    simp [encodePayload]

theorem crcByte (b : Byte) : Statement (.crcByte b) :=
  statement_of_payload _ fun n h => by
    have h : 8 ≤ n := h
    simp only [encodePayload]
    rw [placeByte_above b (show 0 + 8 ≤ n by omega)]

theorem crcChk (c : Byte) : Statement (.crcChk c) :=
  statement_of_payload _ fun n h => by
    have h : 8 ≤ n := h
    simp only [encodePayload]
    rw [placeByte_above c (show 0 + 8 ≤ n by omega)]

theorem crcPair (d0 d1 : Byte) : Statement (.crcPair d0 d1) :=
  statement_of_payload _ fun n h => by
    have h : 16 ≤ n := h
    simp only [encodePayload, BitVec.getLsbD_or]
    rw [placeByte_above d0 (show 8 + 8 ≤ n by omega), placeByte_above d1 (show 0 + 8 ≤ n by omega)]
    rfl

theorem crcVfy (d0 d1 c : Byte) : Statement (.crcVfy d0 d1 c) :=
  statement_of_payload _ fun n h => by
    have h : 24 ≤ n := h
    simp only [encodePayload, BitVec.getLsbD_or]
    rw [placeByte_above d0 (show 16 + 8 ≤ n by omega), placeByte_above d1 (show 8 + 8 ≤ n by omega), placeByte_above c (show 0 + 8 ≤ n by omega)]
    rfl

theorem cvtT (code : Code) : Statement (.cvtT code) :=
  statement_of_payload _ fun n h => by
    simp [encodePayload, BitVec.getLsbD_setWidth, BitVec.getLsbD_of_ge, show 16 ≤ n from h]

theorem cvtRh (code : Code) : Statement (.cvtRh code) :=
  statement_of_payload _ fun n h => by
    simp [encodePayload, BitVec.getLsbD_setWidth, BitVec.getLsbD_of_ge, show 16 ≤ n from h]

theorem frmMeas (f0 f1 f2 f3 f4 f5 : Byte) : Statement (.frmMeas f0 f1 f2 f3 f4 f5) :=
  statement_of_payload _ fun n h => by
    have h : 48 ≤ n := h
    simp only [encodePayload, BitVec.getLsbD_or]
    rw [placeByte_above f0 (show 40 + 8 ≤ n by omega), placeByte_above f1 (show 32 + 8 ≤ n by omega), placeByte_above f2 (show 24 + 8 ≤ n by omega), placeByte_above f3 (show 16 + 8 ≤ n by omega), placeByte_above f4 (show 8 + 8 ≤ n by omega), placeByte_above f5 (show 0 + 8 ≤ n by omega)]
    rfl

theorem frmId (i0 i1 c : Byte) : Statement (.frmId i0 i1 c) :=
  statement_of_payload _ fun n h => by
    have h : 24 ≤ n := h
    simp only [encodePayload, BitVec.getLsbD_or]
    rw [placeByte_above i0 (show 16 + 8 ≤ n by omega), placeByte_above i1 (show 8 + 8 ≤ n by omega), placeByte_above c (show 0 + 8 ≤ n by omega)]
    rfl

end Sys2Proof.Laws.EncodedFields
end

