-- ==== Sys2Proof/Laws/Ports.lean ====
section
/-!
SUPPORT. What a reading of a port depends on: the observation of the state (70 R120), and whether the block is busy.
-/

namespace Sys2Proof.Machine

/-- States with the same observation agree on every flag. -/
theorem flag_of_observe {s u : State} (h : observe s = observe u) (f : Flag) : s.flag f = u.flag f := by
  have e : statusRegister s = statusRegister u := congrArg Observation.status h
  rw [← getFlag_statusRegister, ← getFlag_statusRegister, e]

/-- A claim's reading of `temp` on a block that is not busy. -/
theorem claimTemp_of_ready {s : State} (h : s.busy = false) (n : Nat) :
    claimTemp n s = if s.flag .tValid then .ok s.temp else .error .unwrittenTemp := by
  cases v : s.flag .tValid <;> simp [claimTemp, readTemp, h, v]

/-- A claim's reading of `rh` on a block that is not busy. -/
theorem claimRh_of_ready {s : State} (h : s.busy = false) (n : Nat) :
    claimRh n s = if s.flag .rhValid then .ok s.rh else .error .unwrittenRh := by
  cases v : s.flag .rhValid <;> simp [claimRh, readRh, h, v]

end Sys2Proof.Machine
end

