-- ==== Sys2Proof/Tests/Slice0.lean ====
section
/-!
SUPPORT. Small checks of the model against values the spec writes out (95_test_vectors and the examples of the
rules), and for each statement with hypotheses a named witness that meets them.
-/

namespace Sys2Proof.Tests

open Sys2Proof.Machine

/-- Whether an outcome is this next state. -/
def reaches (o : Host.Outcome State Fault Refusal) (t : State) : Bool :=
  match o with
  | .next u => u == t
  | .fault _ => false
  | .refused _ => false

theorem next_of_reaches {o : Host.Outcome State Fault Refusal} {t : State} (h : reaches o t = true) :
    o = .next t := by
  cases o with
  | next u => exact congrArg _ (eq_of_beq h)
  | fault _ => exact absurd h Bool.false_ne_true
  | refused _ => exact absurd h Bool.false_ne_true

/-- A state with these registers, nothing in flight and a silent host. -/
def regs (crc : Byte) (status : StatusWord) (temp rh : Result) : State := ⟨crc, status, temp, rh, none, []⟩

/-- Reset, with the host about to make these moves. -/
def resetWith (moves : List HostMove) : State := setHost moves State.reset

/-! ### WellFormed: an ill-formed line for each check is refused -/

theorem test_wellFormed_byte : (AsmLine.crcByte 256).wellFormed = false ∧ (AsmLine.crcByte 255).wellFormed = true := by decide
theorem test_wellFormed_chk : (AsmLine.crcChk 256).wellFormed = false := by decide
theorem test_wellFormed_pair : (AsmLine.crcPair 256 0).wellFormed = false ∧ (AsmLine.crcPair 0 256).wellFormed = false := by decide
theorem test_wellFormed_vfy : (AsmLine.crcVfy 256 0 0).wellFormed = false ∧
    (AsmLine.crcVfy 0 256 0).wellFormed = false ∧ (AsmLine.crcVfy 0 0 256).wellFormed = false := by decide
theorem test_wellFormed_code : (AsmLine.cvtT 65536).wellFormed = false ∧ (AsmLine.cvtRh 65536).wellFormed = false ∧
    (AsmLine.cvtT 65535).wellFormed = true := by decide
theorem test_wellFormed_meas : (AsmLine.frmMeas 256 0 0 0 0 0).wellFormed = false ∧
    (AsmLine.frmMeas 0 256 0 0 0 0).wellFormed = false ∧ (AsmLine.frmMeas 0 0 256 0 0 0).wellFormed = false ∧
    (AsmLine.frmMeas 0 0 0 256 0 0).wellFormed = false ∧ (AsmLine.frmMeas 0 0 0 0 256 0).wellFormed = false ∧
    (AsmLine.frmMeas 0 0 0 0 0 256).wellFormed = false := by decide
theorem test_wellFormed_id : (AsmLine.frmId 256 0 0).wellFormed = false ∧ (AsmLine.frmId 0 256 0).wellFormed = false ∧
    (AsmLine.frmId 0 0 256).wellFormed = false := by decide
theorem test_wellFormed_word : (AsmLine.word64 (2 ^ 64)).wellFormed = false ∧ (AsmLine.word64 (2 ^ 64 - 1)).wellFormed = true := by decide
theorem test_wellFormed_seq : (AsmLine.crcSeq [0, 256]).wellFormed = false ∧ (AsmLine.crcSeq []).wellFormed = true := by decide
theorem test_wellFormed_verify : (AsmLine.crcVerify 256 []).wellFormed = false ∧ (AsmLine.crcVerify 0 [256]).wellFormed = false := by decide
theorem test_wellFormed_both : (AsmLine.cvtBoth 65536 0).wellFormed = false ∧ (AsmLine.cvtBoth 0 65536).wellFormed = false := by decide

/-! ### Decode: words written out bit by bit from the encodings of R41, R43 and opcode_table.json -/

theorem test_decode_nop : decode
    0b00000000_00000000_00000000_00000000_00000000_00000000_00000000_00000000#64 = .ok .nop := by decide
theorem test_decode_crcInit : decode
    0b00000001_00000000_00000000_00000000_00000000_00000000_00000000_00000000#64 = .ok .crcInit := by decide
theorem test_decode_crcByte : decode
    0b00000010_00000000_00000000_00000000_00000000_00000000_00000000_10111110#64 = .ok (.crcByte 0xBE#8) := by decide
theorem test_decode_crcChk : decode
    0b00000011_00000000_00000000_00000000_00000000_00000000_00000000_10010010#64 = .ok (.crcChk 0x92#8) := by decide
theorem test_decode_crcPair : decode
    0b00000100_00000000_00000000_00000000_00000000_00000000_10111110_11101111#64 = .ok (.crcPair 0xBE#8 0xEF#8) := by decide
theorem test_decode_crcVfy : decode
    0b00000101_00000000_00000000_00000000_00000000_01101000_00111010_11111101#64 =
      .ok (.crcVfy 0x68#8 0x3A#8 0xFD#8) := by decide
theorem test_decode_cvtT : decode
    0b00001000_00000000_00000000_00000000_00000000_00000000_01101000_01010000#64 = .ok (.cvtT 0x6850#16) := by decide
theorem test_decode_cvtRh : decode
    0b00001001_00000000_00000000_00000000_00000000_00000000_10000000_00000000#64 = .ok (.cvtRh 0x8000#16) := by decide
theorem test_decode_frmMeas : decode
    0b00001100_00000000_01101000_00111010_11111101_10000000_00000000_10100010#64 =
      .ok (.frmMeas 0x68#8 0x3A#8 0xFD#8 0x80#8 0x00#8 0xA2#8) := by decide
theorem test_decode_frmId : decode
    0b00001101_00000000_00000000_00000000_00000000_00000000_01000111_00101011#64 =
      .ok (.frmId 0x00#8 0x47#8 0x2B#8) := by decide
theorem test_decode_undefined : decode 0x0600000000000000#64 = .error .illOpc ∧
    decode 0x0B00000000000000#64 = .error .illOpc ∧ decode 0x0E00000000000000#64 = .error .illOpc ∧
    decode 0x1000000000000000#64 = .error .illOpc ∧ decode 0xFF00000000000000#64 = .error .illOpc := by decide
theorem test_decode_table_word : decodeTableWord 64 0x0C00683AFD8000A2 =
    some (.frmMeas 0x68#8 0x3A#8 0xFD#8 0x80#8 0x00#8 0xA2#8) ∧ decodeTableWord 64 0x0600000000000000 = none := by decide
theorem test_code_is_be16 : codeField 0x0800000000006850#64 = be16 0x68#8 0x50#8 := by decide
theorem test_encode_frmMeas : encode (.frmMeas 0x68#8 0x3A#8 0xFD#8 0x80#8 0x00#8 0xA2#8) = 0x0C00683AFD8000A2#64 := by decide
theorem test_payload_frame : (RawFrame.mk 0x68#8 0x3A#8 0xFD#8 0x80#8 0x00#8 0xA2#8).payload = 0x683AFD8000A2#48 ∧
    (HalfFrame.mk 0x00#8 0x47#8 0x2B#8).payload = 0x00472B#24 := by decide

/-! ### Functions: values from 95_test_vectors L2.1, L2.3 -/

theorem test_crc8_whole_frame : crc8 [0x68#8, 0x3A#8, 0xFD#8, 0x80#8, 0x00#8, 0xA2#8] = 0x4B#8 := by decide +kernel
theorem test_crc8_step_table : crc8Step 0x31#8 = 0x62#8 ∧ crc8Step 0x81#8 = 0x33#8 ∧ crc8Step 0xC0#8 = 0xB1#8 := by decide
theorem test_crc8_update_table : crc8Update 0x12#8 0x00#8 = 0x21#8 ∧ crc8Update 0x00#8 0x80#8 = 0x7A#8 ∧
    crc8Update 0xAE#8 0x3A#8 = 0xFD#8 := by decide +kernel
theorem test_conv_rows : convT 0x8A5E#16 = 49586 ∧ convRh 0x8A5E#16 = 54049 ∧ convT 1#16 = -44998 ∧
    convRh 0x41D5#16 = 25715 := by decide
theorem test_cause_codes : causeCode .illOpc = 1 ∧ causeCode .illRsv = 2 := by decide

/-! ### One step of each operation (95_test_vectors L2.2 to L2.6) -/

theorem test_nop : reaches (step ((regs 0x92#8 0x0C40#16 1#32 2#32).withFetchWord 64 0)) (regs 0x92#8 0x0C40#16 1#32 2#32) = true := by
  decide
theorem test_crcInit_keeps_flags : reaches (step ((regs 0x92#8 0x0001#16 0#32 0#32).withFetchWord 64 0x0100000000000000))
    (regs 0xFF#8 0x0001#16 0#32 0#32) = true := by decide
theorem test_crcByte : reaches (step (State.reset.withFetchWord 64 0x02000000000000BE)) (regs 0x0C#8 0#16 0#32 0#32) = true := by
  decide +kernel
theorem test_crcChk : reaches (step ((regs 0x92#8 0#16 0#32 0#32).withFetchWord 64 0x0300000000000092))
    (regs 0x92#8 0x0001#16 0#32 0#32) = true := by decide
theorem test_crcChk_mismatch_clears : reaches (step ((regs 0x92#8 0x0001#16 0#32 0#32).withFetchWord 64 0x0300000000000093))
    (regs 0x92#8 0#16 0#32 0#32) = true := by decide
theorem test_crcPair_ignores_crc : reaches (step ((regs 0x37#8 0#16 0#32 0#32).withFetchWord 64 0x040000000000BEEF))
    (regs 0x92#8 0#16 0#32 0#32) = true := by decide +kernel
theorem test_crcVfy : reaches (step (State.reset.withFetchWord 64 0x0500000000683AFD)) (regs 0xFD#8 0x0001#16 0#32 0#32) = true := by
  decide +kernel
theorem test_crcVfy_mismatch : reaches (step (State.reset.withFetchWord 64 0x0500000000683AFC)) (regs 0xFD#8 0#16 0#32 0#32) = true := by
  decide +kernel
theorem test_cvtT_negative : reaches (step (State.reset.withFetchWord 64 0x0800000000000000))
    (regs 0xFF#8 0x0100#16 0xFFFF5038#32 0#32) = true := by decide +kernel
theorem test_cvtT_source_vector : reaches (step (State.reset.withFetchWord 64 0x0800000000006850))
    (regs 0xFF#8 0x0100#16 0x000066C3#32 0#32) = true := by decide +kernel
theorem test_cvtRh_half_scale : reaches (step (State.reset.withFetchWord 64 0x0900000000008000))
    (regs 0xFF#8 0x0200#16 0#32 0x0000C350#32) = true := by decide +kernel
theorem test_frmMeas_accepted : reaches (step (State.reset.withFetchWord 64 0x0C00683AFD8000A2))
    (regs 0xFF#8 0x030E#16 26248#32 50000#32) = true := by decide +kernel
theorem test_frmMeas_bad_half_keeps_results :
    reaches (step ((regs 0xFF#8 0x030E#16 26307#32 40032#32).withFetchWord 64 0x0C0068519D667C0B))
      (regs 0xFF#8 0x0314#16 26307#32 40032#32) = true := by decide +kernel
theorem test_frmId_present : reaches (step (State.reset.withFetchWord 64 0x0D0000000008875B)) (regs 0xFF#8 0x00E0#16 0#32 0#32) = true := by
  decide +kernel
theorem test_frmId_bad_crc : reaches (step ((regs 0xFF#8 0x04E0#16 0#32 0#32).withFetchWord 64 0x0D0000000000472A))
    (regs 0xFF#8 0x0440#16 0#32 0#32) = true := by decide +kernel
theorem test_illegal_words : reaches (step (State.reset.withFetchWord 64 0x06FFFFFFFFFFFFFF)) (regs 0xFF#8 0x0400#16 0#32 0#32) = true ∧
    reaches (step (State.reset.withFetchWord 64 0x0C01683AFD8000A2)) (regs 0xFF#8 0x0800#16 0#32 0#32) = true := by decide +kernel
theorem test_reset_wins : reaches (step (setHost [.drive true true 0x0400000000001234#64] (regs 0x00#8 0x030F#16 42500#32 50000#32)))
    State.reset = true := by decide

/-! ### Ports, assembler and driver -/

theorem test_observe_unwritten : observe (regs 0x37#8 0x0C40#16 7#32 8#32) = ⟨0x37#8, 0x0C40#16, none, none⟩ := by decide
theorem test_claim_unwritten : claimTemp 0 (regs 0x37#8 0x0200#16 7#32 8#32) = .error .unwrittenTemp ∧
    claimRh 0 (regs 0x37#8 0x0200#16 7#32 8#32) = .ok 8#32 := ⟨rfl, rfl⟩
theorem test_port_written : readTemp 0 (regs 0x37#8 0x0100#16 7#32 8#32) = 7#32 ∧
    readStatus 0 (regs 0x37#8 0xF100#16 7#32 8#32) = 0x0100#16 := by decide
theorem test_observe_written : observe (regs 0xFF#8 0x030E#16 26248#32 50000#32) =
    ⟨0xFF#8, 0x030E#16, some 26248#32, some 50000#32⟩ := by decide
theorem test_assemble_text : assembleText "frm.meas 0x68, 0x3A, 0xFD, 0x80, 0x00, 0xA2 ; a frame" = some [0x0C00683AFD8000A2#64] := by
  decide +kernel
theorem test_assemble_text_decimal : assembleText "cvt.t 16852" = some [0x08000000000041D4#64] ∧ assembleText "; nothing" = some [] ∧
    assembleText ".word64 0x0600000000000000" = some [0x0600000000000000#64] := by decide +kernel
theorem test_assemble_text_refused : assembleText "crc.byte 256" = none ∧ assembleText "CRC.INIT" = none ∧
    assembleText "crc.pair 1" = none ∧ assembleText "crc.byte 0x" = none ∧ assembleText "crc.pair 1,, 2" = none := by decide +kernel
theorem test_assemble_verify : assembleText "crc.verify 0x92, 0xBE, 0xEF" =
    some [0x0100000000000000#64, 0x02000000000000BE#64, 0x02000000000000EF#64, 0x0300000000000092#64] := by decide +kernel
theorem test_assemble_program : assembleProgram ["crc.init", "", "crc.chk 0xFF"] =
    some [0x0100000000000000#64, 0x03000000000000FF#64] ∧ assembleLines [.nop, .crcByte 256] = none := by decide +kernel
theorem test_command_table : commandTable.map CommandDescriptor.opcode =
    [[0x7C#8, 0xA2#8], [0x78#8, 0x66#8], [0x64#8, 0x58#8], [0x60#8, 0x9C#8], [0x80#8, 0x5D#8], [0xEF#8, 0xC8#8]] := by decide
theorem test_probe_ignores_write : (probe (.error 1 : Except Nat Unit) (.ok ⟨0x00#8, 0x47#8, 0x2B#8⟩) State.reset).result = true ∧
    (probe (.ok () : Except Nat Unit) (.ok ⟨0x00#8, 0x47#8, 0x2C#8⟩) State.reset).result = false ∧
    (probe (.ok () : Except Nat Unit) (.error 1) State.reset).result = false := by decide +kernel
theorem test_async_result : (readAsyncResult (.ok ⟨0x68#8, 0x50#8, 0x9D#8, 0x66#8, 0x7C#8, 0x0B#8⟩ : Except Nat RawFrame) State.reset).result =
    .ok 26307#32 40032#32 := by decide +kernel

/-! ### Witnesses: for each statement with hypotheses, concrete values that meet them all -/

theorem test_witness_EncodeOfDecode : decode 0x0000000000000000#64 = .ok .nop := by decide

theorem test_witness_StepRuns : (resetWith [.drive false true 0x0300000000000092#64]).inFlight = none ∧
    (resetWith [.drive false true 0x0300000000000092#64]).host = [.drive false true 0x0300000000000092#64] ∧
    decode 0x0300000000000092#64 = .ok (.crcChk 0x92#8) := by decide

/-- The three clauses of EveryWordRunsOrSetsItsStickyBit at the edges of the opcode map and of a reserved field. -/
theorem test_witness_EveryWord :
    ((0x0700000000000000#64).extractLsb' 56 8 ∉ definedOpcodes) ∧
    ((0x0EFFFFFFFFFFFFFF#64).extractLsb' 56 8 ∉ definedOpcodes) ∧
    ((0x0200000000000100#64).extractLsb' 56 8 ∈ definedOpcodes ∧
      0x0200000000000100#64 &&& reservedBitsOf ((0x0200000000000100#64).extractLsb' 56 8) ≠ 0#64) ∧
    ((0x02000000000000FF#64).extractLsb' 56 8 ∈ definedOpcodes ∧
      0x02000000000000FF#64 &&& reservedBitsOf ((0x02000000000000FF#64).extractLsb' 56 8) = 0#64) := by decide

theorem test_witness_ResetWins : ({ resetWith [.drive true true 5#64] with inFlight := some 0#64 } : State).host =
    .drive true true 5#64 :: [] := by decide

theorem test_witness_OnlyResetClears : quietMove (setHost [offer 0#64] (regs 0#8 0x0F00#16 0#32 0#32)) = true ∧
    step (setHost [offer 0#64] (regs 0#8 0x0F00#16 0#32 0#32)) = .next (regs 0#8 0x0F00#16 0#32 0#32) ∧
    ∀ n ∈ [8, 9, 10, 11], (regs 0#8 0x0F00#16 0#32 0#32).status.getLsbD n = true :=
  ⟨by decide, next_of_reaches (by decide), by decide⟩

theorem test_witness_PowerUp : (resetWith [.powerUp 1#8 0xFFFF#16 2#32 3#32]).host = .powerUp 1#8 0xFFFF#16 2#32 3#32 :: [] := by decide

theorem test_witness_Busy : ({ resetWith [offer 7#64] with inFlight := some 0#64 } : State).inFlight = some 0#64 ∧
    ({ resetWith [offer 7#64] with inFlight := some 0#64 } : State).host = [.drive false true 7#64] := by decide

theorem test_witness_Idle : State.reset.inFlight = none ∧ State.reset.host = [] ∧
    (resetWith [.drive false false 9#64]).inFlight = none ∧ (resetWith [.drive false false 9#64]).host = [.drive false false 9#64] := by
  decide

theorem test_witness_IssuedWords : State.reset.inFlight = none := by decide

theorem test_witness_KeepsSafe : SafeState (resetWith [offer 0x0C00683AFD8000A2#64]) ∧
    step (resetWith [offer 0x0C00683AFD8000A2#64]) = .next (regs 0xFF#8 0x030E#16 26248#32 50000#32) :=
  ⟨by decide, next_of_reaches (by decide +kernel)⟩

theorem test_witness_Reserved : State.reset.busy = false ∧
    execWord 0x0600000000000000#64 State.reset = .next (regs 0xFF#8 0x0400#16 0#32 0#32) :=
  ⟨by decide, next_of_reaches (by decide)⟩

theorem test_witness_StatusBits : exec (.cvtT 0#16) State.reset = .next (regs 0xFF#8 0x0100#16 0xFFFF5038#32 0#32) ∧
    (Instr.cvtT 0#16).opcode ∉ statusWriters 9 ∧ (Instr.cvtT 0#16).opcode ∉ statusWriters 11 :=
  ⟨next_of_reaches (by decide +kernel), by decide, by decide⟩

/-- An operation outside each of the three lists of OperationsWriteOnlyTheirRegisters. -/
theorem test_witness_Registers : exec .nop State.reset = .next State.reset ∧
    Instr.nop.opcode ∉ [.crcInit, .crcByte, .crcPair, .crcVfy] ∧ Instr.nop.opcode ∉ [.cvtT, .frmMeas] ∧
    Instr.nop.opcode ∉ [.cvtRh, .frmMeas] :=
  ⟨next_of_reaches (by decide), by decide, by decide, by decide⟩

theorem test_witness_Unwritten : (regs 0xFF#8 0#16 0#32 0#32).host = (regs 0xFF#8 0#16 5#32 6#32).host ∧
    (regs 0xFF#8 0#16 0#32 0#32).inFlight = (regs 0xFF#8 0#16 5#32 6#32).inFlight ∧
    observe (regs 0xFF#8 0#16 0#32 0#32) = observe (regs 0xFF#8 0#16 5#32 6#32) := by decide

theorem test_witness_Ports : State.reset.busy = false ∧ State.reset.status &&& 0xF000#16 = 0#16 := by decide

theorem test_witness_Idempotent : isCrcByte .nop = false ∧ decode 0x0600000000000000#64 = .error .illOpc := by decide

theorem test_witness_OneChangedByte : verify [0x68#8, 0x3A#8] 0xFD#8 = true ∧ (0x69#8 ≠ 0x68#8) ∧ (0x3B#8 ≠ 0x3A#8) ∧
    bytesChanged ⟨0x68#8, 0x3A#8, 0xFD#8⟩ ⟨0x68#8, 0x3A#8, 0xFC#8⟩ = 1 := by decide +kernel

theorem test_witness_ZeroResidue : (0x00#8 : Byte) ≠ crc8 [0x68#8, 0x3A#8] := by decide +kernel

/-- A word of each format with its opcode and a reserved bit set, at both ends of the reserved field, for the ILL_RSV
clauses of the operations' statements. -/
theorem test_witness_reserved_words :
    ((0x0000000000000001#64).extractLsb' 56 8 = 0x00#8 ∧ (0x0000000000000001#64).extractLsb' 0 56 ≠ 0#56) ∧
    ((0x0180000000000000#64).extractLsb' 56 8 = 0x01#8 ∧ (0x0180000000000000#64).extractLsb' 0 56 ≠ 0#56) ∧
    ((0x020000000000013A#64).extractLsb' 56 8 = 0x02#8 ∧ (0x020000000000013A#64).extractLsb' 8 48 ≠ 0#48) ∧
    ((0x0380000000000000#64).extractLsb' 56 8 = 0x03#8 ∧ (0x0380000000000000#64).extractLsb' 8 48 ≠ 0#48) ∧
    ((0x0400000000010000#64).extractLsb' 56 8 = 0x04#8 ∧ (0x0400000000010000#64).extractLsb' 16 40 ≠ 0#40) ∧
    ((0x0500000001000000#64).extractLsb' 56 8 = 0x05#8 ∧ (0x0500000001000000#64).extractLsb' 24 32 ≠ 0#32) ∧
    ((0x0800000000016850#64).extractLsb' 56 8 = 0x08#8 ∧ (0x0800000000016850#64).extractLsb' 16 40 ≠ 0#40) ∧
    ((0x0980000000000000#64).extractLsb' 56 8 = 0x09#8 ∧ (0x0980000000000000#64).extractLsb' 16 40 ≠ 0#40) ∧
    ((0x0C01683AFD8000A2#64).extractLsb' 56 8 = 0x0C#8 ∧ (0x0C01683AFD8000A2#64).extractLsb' 48 8 ≠ 0#8) ∧
    ((0x0D00000001472B00#64).extractLsb' 56 8 = 0x0D#8 ∧ (0x0D00000001472B00#64).extractLsb' 24 32 ≠ 0#32) := by decide

theorem test_witness_CrcInit : State.reset.crc = 0xFF#8 := by decide

/-- The four verdicts on a frame: both halves good, one bad, the other bad, both bad (95_test_vectors L2.4 V1 to V4). -/
theorem test_witness_FrmMeas :
    (true = decide (crc8 [0x68#8, 0x3A#8] = 0xFD#8) ∧ true = decide (crc8 [0x80#8, 0x00#8] = 0xA2#8)) ∧
    (false = decide (crc8 [0x68#8, 0x3A#8] = 0xFC#8) ∧ false = decide (crc8 [0x80#8, 0x00#8] = 0xA3#8)) ∧
    ((true && true) = true ∧ (false && true) = false ∧ (true && false) = false ∧ (false && false) = false) := by decide +kernel

theorem test_witness_FrmId : true = decide (crc8 [0x00#8, 0x47#8] = 0x2B#8) ∧ true = decide ((0x47#8).toNat % 32 = 7) ∧
    false = decide (crc8 [0x00#8, 0x06#8] = 0x28#8) ∧ false = decide ((0x06#8).toNat % 32 = 7) := by decide +kernel

theorem test_witness_Conversions : (0#16).toNat ≤ (0xFFFF#16).toNat ∧ (0xFFFF#16).toNat = (0xFFFE#16).toNat + 1 := by decide

theorem test_witness_FrameOps : (Instr.frmMeas 0 0 0 0 0 0).opcode ∈ [Opcode.frmMeas, Opcode.frmId] ∧
    (Instr.frmId 0 0 0).opcode ∈ [Opcode.frmMeas, Opcode.frmId] := by decide

/-- A frame FRM.MEAS accepts, with one byte changed in either half, and an identification frame (95_test_vectors L2.4, L2.5). -/
theorem test_witness_FrameChange :
    (RawFrame.mk 0x68#8 0x3A#8 0xFD#8 0x80#8 0x00#8 0xA2#8).tHalf.passes = true ∧
    (RawFrame.mk 0x68#8 0x3A#8 0xFD#8 0x80#8 0x00#8 0xA2#8).rhHalf.passes = true ∧
    bytesChanged ⟨0x68#8, 0x3A#8, 0xFD#8⟩ ⟨0x69#8, 0x3A#8, 0xFD#8⟩ = 1 ∧
    bytesChanged ⟨0x80#8, 0x00#8, 0xA2#8⟩ ⟨0x80#8, 0x00#8, 0xA2#8⟩ = 0 ∧
    bytesChanged ⟨0x80#8, 0x00#8, 0xA2#8⟩ ⟨0x80#8, 0x00#8, 0xA3#8⟩ = 1 ∧
    (IdFrame.mk 0x00#8 0x47#8 0x2B#8).half.passes = true ∧
    bytesChanged ⟨0x00#8, 0x47#8, 0x2B#8⟩ ⟨0x00#8, 0x46#8, 0x2B#8⟩ = 1 := by decide +kernel

theorem test_witness_Rejected : exec (.frmMeas 0 0 0 0 0 0) (regs 0xFF#8 0x030E#16 26307#32 40032#32) =
      .next (regs 0xFF#8 0x0310#16 26307#32 40032#32) ∧
    (regs 0xFF#8 0x0310#16 26307#32 40032#32).status.getLsbD 4 = true :=
  ⟨next_of_reaches (by decide +kernel), by decide⟩

/-- The two clauses of BlockingMeasurementReturnsTheFramesResult. -/
theorem test_witness_Measurement :
    (crc8 [0x68#8, 0x3A#8] = 0xFD#8 ∧ crc8 [0x80#8, 0x00#8] = 0xA2#8) ∧
    ¬(crc8 [0x68#8, 0x3A#8] = 0xFD#8 ∧ crc8 [0x80#8, 0x00#8] = 0xA3#8) := by decide +kernel

/-- The bounds of AssemblerEncodesOrRefuses. -/
theorem test_witness_Assembler : assembleLine (.crcByte 255) = some [0x02000000000000FF#64] ∧ assembleLine (.crcByte 256) = none ∧
    assembleLine (.cvtRh 65535) = some [0x090000000000FFFF#64] ∧ assembleLine (.cvtRh 65536) = none ∧
    assembleLine (.frmMeas 255 255 255 255 255 255) = some [0x0C00FFFFFFFFFFFF#64] ∧
    assembleLine (.frmMeas 255 255 255 255 255 256) = none ∧
    assembleLine (.word64 (2 ^ 64 - 1)) = some [0xFFFFFFFFFFFFFFFF#64] ∧ assembleLine (.word64 (2 ^ 64)) = none := by decide +kernel

end Sys2Proof.Tests
end

section
/-!
SUPPORT. One shift step of the CRC read as arithmetic (40_crc R55): its two branches, and each branch on numbers whose
bits are coefficients over GF(2).
-/

namespace Sys2Proof.Machine

/-- The top bit of a byte says whether doubling it leaves 8 bits. -/
theorem topBit_iff_le_toNat (r : Byte) : r.getLsbD 7 = true ↔ 128 ≤ r.toNat := by
  rw [show r.getLsbD 7 = r.msb from r.msb_eq_getLsbD_last.symm, BitVec.msb_eq_decide, decide_eq_true_iff]

theorem crc8Step_of_topBit {r : Byte} (h : r.getLsbD 7 = true) : crc8Step r = (r <<< 1) ^^^ crcPoly := if_pos h

theorem crc8Step_of_not_topBit {r : Byte} (h : ¬ r.getLsbD 7 = true) : crc8Step r = r <<< 1 := if_neg h

theorem toNat_shiftLeft_one (r : Byte) : (r <<< 1).toNat = 2 * r.toNat % 2 ^ 8 := by
  rw [BitVec.toNat_shiftLeft, Nat.shiftLeft_eq, Nat.pow_one, Nat.mul_comm]

/-- XOR with 0x131 clears the x^8 term of a number that has one, and leaves 8 bits. -/
theorem xor_0x131_lt {n : Nat} (hlo : 2 ^ 8 ≤ n) (hhi : n < 2 * 2 ^ 8) : n ^^^ 0x131 < 2 ^ 8 := by
  have hx8 : n / 2 ^ 8 = 1 := by omega
  have hdiv : (n ^^^ 0x131) / 2 ^ 8 = 0 := by rw [Nat.xor_div_two_pow, hx8]; rfl
  omega

/-- Without its x^8 term, which the register cannot hold, 0x131 is the model's polynomial. -/
theorem toNat_shiftLeft_one_xor_crcPoly (r : Byte) :
    ((r <<< 1) ^^^ crcPoly).toNat = (2 * r.toNat ^^^ 0x131) % 2 ^ 8 := by
  have hpoly : crcPoly.toNat = 0x131 % 2 ^ 8 := rfl
  rw [BitVec.toNat_xor, toNat_shiftLeft_one, hpoly, Nat.xor_mod_two_pow]

/-- Settles O27: the top bit decides whether the doubled register reaches x^8; if it does not, the shift is the
doubling, and if it does, the XOR reduces it below x^8, so that the register's 8 bits lose nothing. -/
theorem crcStepMultipliesByXModuloThePolynomial : Obligations.CrcStepMultipliesByXModuloThePolynomial := by
  intro r
  have hr : r.toNat < 2 ^ 8 := r.isLt
  by_cases h : r.getLsbD 7 = true
  · have hle : 128 ≤ r.toNat := (topBit_iff_le_toNat r).mp h
    rw [if_neg (by omega), crc8Step_of_topBit h, toNat_shiftLeft_one_xor_crcPoly]
    exact Nat.mod_eq_of_lt (xor_0x131_lt (by omega) (by omega))
  · have hlt : ¬ 128 ≤ r.toNat := mt (topBit_iff_le_toNat r).mpr h
    rw [if_pos (by omega), crc8Step_of_not_topBit h, toNat_shiftLeft_one]
    exact Nat.mod_eq_of_lt (by omega)

end Sys2Proof.Machine
end

section
/-!
SUPPORT. The effect of an operation and of a word as one state: the outcome is always a next state (60 R103), so its
frame, its bits and its invariants are facts about `issue i s` and `wordEffect w s`.
-/

namespace Sys2Proof.Machine

section
variable (s : State)

@[simp] theorem issue_nop : issue .nop s = s := rfl
@[simp] theorem issue_crcInit : issue .crcInit s = writeCrc crcInit s := rfl
@[simp] theorem issue_crcByte (b : Byte) : issue (.crcByte b) s = writeCrc (crc8Update s.crc b) s := rfl
@[simp] theorem issue_crcChk (c : Byte) : issue (.crcChk c) s = setFlag .crcOk (s.crc == c) s := rfl
@[simp] theorem issue_crcPair (d0 d1 : Byte) : issue (.crcPair d0 d1) s = writeCrc (crc8 [d0, d1]) s := rfl
@[simp] theorem issue_crcVfy (d0 d1 c : Byte) :
    issue (.crcVfy d0 d1 c) s = setFlag .crcOk (verify [d0, d1] c) (writeCrc (crc8 [d0, d1]) s) := rfl
@[simp] theorem issue_cvtT (c : Code) : issue (.cvtT c) s = writeTemp (s32 (convT c)) s := rfl
@[simp] theorem issue_cvtRh (c : Code) : issue (.cvtRh c) s = writeRh (s32 (convRh c)) s := rfl
@[simp] theorem issue_frmMeas (f0 f1 f2 f3 f4 f5 : Byte) :
    issue (.frmMeas f0 f1 f2 f3 f4 f5) s = checkMeasurement ⟨f0, f1, f2, f3, f4, f5⟩ s := rfl
@[simp] theorem issue_frmId (i0 i1 c : Byte) :
    issue (.frmId i0 i1 c) s = checkIdentification ⟨i0, i1, c⟩ s := rfl

end

/-- Every operation completes, with the effect the driver sees (60 R103). -/
theorem exec_eq_next_issue (i : Instr) (s : State) : exec i s = .next (issue i s) := by cases i <;> rfl

theorem eq_issue_of_exec {i : Instr} {s t : State} (h : exec i s = .next t) : t = issue i s := by
  rw [exec_eq_next_issue] at h
  exact (Host.Outcome.next.inj h).symm

/-- The state an operation word leaves, legal or not. -/
def wordEffect (w : OpWord) (s : State) : State :=
  match decode w with
  | .ok i => issue i s
  | .error cause => takeIllegalOp cause s

theorem wordEffect_of_ok {w : OpWord} {i : Instr} (h : decode w = .ok i) (s : State) :
    wordEffect w s = issue i s := by
  simp only [wordEffect, h]

theorem wordEffect_of_error {w : OpWord} {c : IllegalCause} (h : decode w = .error c) (s : State) :
    wordEffect w s = takeIllegalOp c s := by
  simp only [wordEffect, h]

/-- Every word completes, legal or not (60 R88, R103). -/
theorem execWord_eq_next_wordEffect (w : OpWord) (s : State) : execWord w s = .next (wordEffect w s) := by
  cases h : decode w with
  | ok i => rw [execWord_of_ok h, wordEffect_of_ok h, exec_eq_next_issue]
  | error c => rw [execWord_of_error h, wordEffect_of_error h]

/-- THE CASES OF A WORD: what holds after every operation and after either illegal-operation outcome holds after it. -/
theorem wordEffect_cases {P : State → Prop} (w : OpWord) (s : State) (hok : ∀ i, P (issue i s))
    (hill : ∀ c, P (takeIllegalOp c s)) : P (wordEffect w s) := by
  cases h : decode w with
  | ok i => rw [wordEffect_of_ok h]; exact hok i
  | error c => rw [wordEffect_of_error h]; exact hill c

/-! ### The handshake and the host's moves -/

@[simp] theorem issue_inFlight (i : Instr) (s : State) : (issue i s).inFlight = s.inFlight := by
  cases i <;> simp

@[simp] theorem issue_host (i : Instr) (s : State) : (issue i s).host = s.host := by
  cases i <;> simp

@[simp] theorem wordEffect_inFlight (w : OpWord) (s : State) : (wordEffect w s).inFlight = s.inFlight :=
  wordEffect_cases (P := fun t => t.inFlight = s.inFlight) w s (issue_inFlight · s) (takeIllegalOp_inFlight s)

@[simp] theorem wordEffect_host (w : OpWord) (s : State) : (wordEffect w s).host = s.host :=
  wordEffect_cases (P := fun t => t.host = s.host) w s (issue_host · s) (takeIllegalOp_host s)

end Sys2Proof.Machine
end

section
/-!
SUPPORT. Who writes what (10_state R14, R15, R18, R19): the registers and the STATUS bits each operation leaves as they
were.
-/

namespace Sys2Proof.Machine

theorem putFlag_bit_of_ne {f : Flag} {n : Nat} (h : n ≠ f.bit) (b : Bool) (w : StatusWord) :
    (putFlag f b w).getLsbD n = w.getLsbD n := by
  rw [putFlag_bit, if_neg h]

theorem putFlag_true_keeps_one {w : StatusWord} {n : Nat} (h : w.getLsbD n = true) (f : Flag) :
    (putFlag f true w).getLsbD n = true := by
  rw [putFlag_bit, h, ite_self]

/-! ### STATUS after the two frame operations -/

/-- Every bit of STATUS after a measurement frame: an accepted one sets both valid bits (42_frame R77). -/
theorem checkMeasurement_bit (f : RawFrame) (s : State) (n : Nat) :
    (checkMeasurement f s).status.getLsbD n =
      if n = 9 ∨ n = 8 then (f.tHalf.passes && f.rhHalf.passes) || s.status.getLsbD n
      else (setFrameVerdict f.tHalf.passes f.rhHalf.passes s).status.getLsbD n := by
  rcases checkMeasurement_cases f s with ⟨ht, hr, h⟩ | ⟨hrej, h⟩
  · rw [h, ht, hr]
    simp only [writeFrameResults, writeRh_status, writeTemp_status, putFlag_bit, Flag.bit]
    by_cases h9 : n = 9 <;> by_cases h8 : n = 8 <;> simp [h9, h8]
  · rw [h, hrej, Bool.false_or, setFrameVerdict_bit]
    by_cases hn : n = 9 ∨ n = 8
    · rw [if_pos hn]
      rcases hn with rfl | rfl <;> rfl
    · rw [if_neg hn]

/-- Every bit of STATUS after an identification frame (42_frame R78). -/
theorem checkIdentification_bit (f : IdFrame) (s : State) (n : Nat) :
    (checkIdentification f s).status.getLsbD n =
      if n = 7 then f.half.passes && sigOk f.idLsb else if n = 6 then sigOk f.idLsb
      else if n = 5 then f.half.passes else s.status.getLsbD n :=
  setIdVerdict_bit _ _ s n

/-! ### The frame of an operation -/

/-- A bit without `o` among its writers is none of those that `o` writes. -/
theorem ne_of_notMem_statusWriters {o : Opcode} {n : Nat} (h : o ∉ statusWriters n) (k : Nat)
    (hk : o ∈ statusWriters k) : n ≠ k := by
  rintro rfl
  exact h hk

/-- A bit of STATUS whose writers the operation is not among keeps its value (10_state R15, R17). -/
theorem issue_bit_of_not_writer {i : Instr} {n : Nat} (h : i.opcode ∉ statusWriters n) (s : State) :
    (issue i s).status.getLsbD n = s.status.getLsbD n := by
  cases i with
  | nop | crcInit | crcByte _ | crcPair _ _ => rfl
  | crcChk c => exact putFlag_bit_of_ne (ne_of_notMem_statusWriters (o := .crcChk) h 0 (by decide)) ..
  | crcVfy d0 d1 c => exact putFlag_bit_of_ne (ne_of_notMem_statusWriters (o := .crcVfy) h 0 (by decide)) ..
  | cvtT c => exact putFlag_bit_of_ne (ne_of_notMem_statusWriters (o := .cvtT) h 8 (by decide)) ..
  | cvtRh c => exact putFlag_bit_of_ne (ne_of_notMem_statusWriters (o := .cvtRh) h 9 (by decide)) ..
  | frmMeas =>
    have hne := ne_of_notMem_statusWriters (o := .frmMeas) h
    rw [issue_frmMeas, checkMeasurement_bit, setFrameVerdict_bit]
    simp only [hne 9 (by decide), hne 8 (by decide), hne 4 (by decide), hne 3 (by decide), hne 2 (by decide),
      hne 1 (by decide), or_self, if_false]
  | frmId =>
    have hne := ne_of_notMem_statusWriters (o := .frmId) h
    rw [issue_frmId, checkIdentification_bit]
    simp only [hne 7 (by decide), hne 6 (by decide), hne 5 (by decide), if_false]

theorem issue_crc_of_not_writer {i : Instr} (h : i.opcode ∉ [.crcInit, .crcByte, .crcPair, .crcVfy]) (s : State) :
    (issue i s).crc = s.crc := by
  cases i with
  | crcInit | crcByte _ | crcPair _ _ | crcVfy _ _ _ => simp [Instr.opcode] at h
  | _ => simp

theorem issue_temp_of_not_writer {i : Instr} (h : i.opcode ∉ [.cvtT, .frmMeas]) (s : State) :
    (issue i s).temp = s.temp := by
  cases i with
  | cvtT _ | frmMeas _ _ _ _ _ _ => simp [Instr.opcode] at h
  | _ => simp

theorem issue_rh_of_not_writer {i : Instr} (h : i.opcode ∉ [.cvtRh, .frmMeas]) (s : State) :
    (issue i s).rh = s.rh := by
  cases i with
  | cvtRh _ | frmMeas _ _ _ _ _ _ => simp [Instr.opcode] at h
  | _ => simp

/-! ### The reserved and the sticky bits -/

theorem statusWriters_of_ge {n : Nat} (h : 10 ≤ n) : statusWriters n = [] := by
  obtain ⟨k, rfl⟩ := Nat.exists_eq_add_of_le' h
  rfl

/-- No operation writes bits 15:12, or the sticky bits below them (10_state R15, R16). -/
theorem issue_bit_of_ge {n : Nat} (h : 10 ≤ n) (i : Instr) (s : State) :
    (issue i s).status.getLsbD n = s.status.getLsbD n :=
  issue_bit_of_not_writer (by rw [statusWriters_of_ge h]; exact List.not_mem_nil) s

theorem mask_0xF000_bit_of_lt : ∀ n < 12, (0xF000#16).getLsbD n = false := by decide

theorem issue_reserved (i : Instr) (s : State) : (issue i s).status &&& 0xF000#16 = s.status &&& 0xF000#16 := by
  apply BitVec.eq_of_getLsbD_eq
  intro n _
  rw [BitVec.getLsbD_and, BitVec.getLsbD_and]
  by_cases h : n < 12
  · rw [mask_0xF000_bit_of_lt n h, Bool.and_false, Bool.and_false]
  · rw [issue_bit_of_ge (by omega)]

theorem wordEffect_reserved (w : OpWord) (s : State) :
    (wordEffect w s).status &&& 0xF000#16 = s.status &&& 0xF000#16 :=
  wordEffect_cases (P := fun t => t.status &&& 0xF000#16 = s.status &&& 0xF000#16) w s (issue_reserved · s)
    fun c => putFlag_reserved (causeFlag c) true s.status

/-- The valid bits are set and never cleared, and the sticky bits are not written (10_state R15, R18, R19). -/
theorem issue_keeps_one {s : State} {n : Nat} (hn : 8 ≤ n) (h : s.status.getLsbD n = true) (i : Instr) :
    (issue i s).status.getLsbD n = true := by
  cases i with
  | nop | crcInit | crcByte _ | crcPair _ _ => exact h
  | crcChk _ | crcVfy _ _ _ => exact (putFlag_bit_of_ne (f := .crcOk) (Nat.ne_zero_of_lt hn) ..).trans h
  | cvtT c => exact putFlag_true_keeps_one h .tValid
  | cvtRh c => exact putFlag_true_keeps_one h .rhValid
  | frmMeas =>
    rw [issue_frmMeas, checkMeasurement_bit, setFrameVerdict_bit, h, Bool.or_true]
    simp only [show n ≠ 4 by omega, show n ≠ 3 by omega, show n ≠ 2 by omega, show n ≠ 1 by omega, if_false, ite_self]
  | frmId =>
    rw [issue_frmId, checkIdentification_bit, h]
    simp only [show n ≠ 7 by omega, show n ≠ 6 by omega, show n ≠ 5 by omega, if_false]

theorem wordEffect_keeps_one {s : State} {n : Nat} (hn : 8 ≤ n) (h : s.status.getLsbD n = true) (w : OpWord) :
    (wordEffect w s).status.getLsbD n = true :=
  wordEffect_cases (P := fun t => t.status.getLsbD n = true) w s (issue_keeps_one hn h)
    fun c => putFlag_true_keeps_one h (causeFlag c)

end Sys2Proof.Machine
end

section
/-!
SUPPORT. The step by the host's next move, as an equation for each case of `step_cases`, so that a step is computed
from the moves and the word in flight alone; and what every step leaves (10_state R22).
-/

namespace Sys2Proof.Machine

section
variable {s : State} {rest : List HostMove} {w : OpWord}

theorem step_of_powerUp {c : Byte} {st : StatusWord} {t h : Result} (hh : s.host = .powerUp c st t h :: rest) :
    step s = .next (powerUpBlock c st t h (setHost rest s)) := by
  simp only [step, transact, hh]

theorem step_of_rst {v : Bool} (hh : s.host = .drive true v w :: rest) :
    step s = .next (resetBlock (setHost rest s)) := by
  simp only [step, transact, hh, driven, if_true]

theorem step_of_inFlight (hf : s.inFlight = some w) (hq : quietHost s.host = true) :
    step s = .next (wordEffect w (clearInFlight s)) := by
  rw [← execWord_eq_next_wordEffect]
  rcases step_cases s with ⟨_, _, _, _, _, hh, -⟩ | ⟨_, _, _, hh, -⟩ | ⟨_, hw, -, e⟩ | ⟨_, _, hw, -⟩ | ⟨hw, -⟩
  · simp [hh, quietHost] at hq
  · simp [hh, quietHost] at hq
  · cases hf.symm.trans hw
    exact e
  · cases hf.symm.trans hw
  · cases hf.symm.trans hw

theorem step_of_offer (hf : s.inFlight = none) (hh : s.host = .drive false true w :: rest) :
    step s = .next (wordEffect w (setHost rest s)) := by
  have hr : (setHost rest s).inFlight = none := hf
  simp [step, transact, hh, driven, State.busy, hf, runWord_of_ready hr, execWord_eq_next_wordEffect]

theorem step_of_silent (hf : s.inFlight = none) (hh : s.host = []) : step s = .next s := by
  simp only [step, transact, hh, completeInFlight, hf]

theorem step_of_noOffer (hf : s.inFlight = none) (hh : s.host = .drive false false w :: rest) :
    step s = .next (setHost rest s) := by
  simp [step, transact, hh, driven, State.busy, hf]

end

/-- Every step completes and leaves nothing in flight (10_state R22, 60 R103). -/
theorem step_completes (s : State) : ∃ t, step s = .next t ∧ t.inFlight = none := by
  rcases step_cases s with ⟨_, _, _, _, _, hh, -⟩ | ⟨_, _, _, hh, -⟩ | ⟨_, hf, hq, -⟩ | ⟨_, _, hf, hh, -⟩ |
    ⟨hf, ⟨hh, -⟩ | ⟨_, _, hh, -⟩⟩
  · exact ⟨_, step_of_powerUp hh, rfl⟩
  · exact ⟨_, step_of_rst hh, rfl⟩
  · exact ⟨_, step_of_inFlight hf hq, wordEffect_inFlight ..⟩
  · exact ⟨_, step_of_offer hf hh, (wordEffect_inFlight ..).trans hf⟩
  · exact ⟨_, step_of_silent hf hh, hf⟩
  · exact ⟨_, step_of_noOffer hf hh, hf⟩

/-- THE EFFECT OF A QUIET STEP: with neither `rst` nor a power-up, the step's only change to the registers and STATUS is
that of one word, if there is one to run. -/
theorem quiet_step_cases {s t : State} (hq : quietMove s = true) (h : step s = .next t) :
    t.status = s.status ∨ ∃ w u, u.status = s.status ∧ t = wordEffect w u := by
  rcases step_cases s with ⟨_, _, _, _, _, hh, -⟩ | ⟨_, _, _, hh, -⟩ | ⟨w, hf, hq', -⟩ | ⟨w, _, hf, hh, -⟩ |
    ⟨hf, ⟨hh, -⟩ | ⟨_, _, hh, -⟩⟩
  · simp [quietMove, hh] at hq
  · simp [quietMove, hh] at hq
  · cases h.symm.trans (step_of_inFlight hf hq')
    exact .inr ⟨w, _, clearInFlight_status s, rfl⟩
  · cases h.symm.trans (step_of_offer hf hh)
    exact .inr ⟨w, _, setHost_status s _, rfl⟩
  · cases h.symm.trans (step_of_silent hf hh)
    exact .inl rfl
  · cases h.symm.trans (step_of_noOffer hf hh)
    exact .inl rfl

end Sys2Proof.Machine
end

section
/-!
SUPPORT. The safe states: what an operation or an illegal word does to the verdict bits, the results and their valid
bits (10_state R15, R18, R19).
-/

namespace Sys2Proof.Machine

/-! ### The ranges of the two conversions -/

theorem convT_range (c : Code) : -45000 ≤ convT c ∧ convT c ≤ 129997 := by
  have hc : c.toNat < 65536 := c.isLt
  simp only [convT, tMul, tShift, tOffset, Nat.shiftRight_eq_div_pow]
  omega

theorem convRh_range (c : Code) : 0 ≤ convRh c ∧ convRh c ≤ 99998 := by
  have hc : c.toNat < 65536 := c.isLt
  simp only [convRh, rhMul, rhShift, Nat.shiftRight_eq_div_pow]
  omega

theorem toInt_s32 {v : Int} (hlo : -2 ^ 31 ≤ v) (hhi : v < 2 ^ 31) : (s32 v).toInt = v :=
  BitVec.toInt_ofInt_eq_self (by decide) hlo hhi

theorem toInt_s32_convT (c : Code) : (s32 (convT c)).toInt = convT c := by
  have h := convT_range c
  exact toInt_s32 (by omega) (by omega)

theorem toInt_s32_convRh (c : Code) : (s32 (convRh c)).toInt = convRh c := by
  have h := convRh_range c
  exact toInt_s32 (by omega) (by omega)

/-! ### The results -/

/-- An operation leaves in TEMP a converted code, or leaves TEMP and T_VALID as they were (10_state R15, R18). -/
theorem issue_temp_cases (i : Instr) (s : State) :
    (∃ c, (issue i s).temp = s32 (convT c)) ∨
    ((issue i s).temp = s.temp ∧ (issue i s).status.getLsbD 8 = s.status.getLsbD 8) := by
  by_cases h : i.opcode ∈ [.cvtT, .frmMeas]
  · cases i with
    | cvtT c => exact .inl ⟨c, rfl⟩
    | frmMeas f0 f1 f2 f3 f4 f5 =>
      rw [issue_frmMeas]
      rcases checkMeasurement_cases ⟨f0, f1, f2, f3, f4, f5⟩ s with ⟨-, -, e⟩ | ⟨-, e⟩
      · exact .inl ⟨_, congrArg State.temp e⟩
      · exact .inr (e ▸ ⟨rfl, setFrameVerdict_bit ..⟩)
    | _ => simp [Instr.opcode] at h
  · exact .inr ⟨issue_temp_of_not_writer h s, issue_bit_of_not_writer (n := 8) h s⟩

/-- The same of RH and RH_VALID (10_state R15, R19). -/
theorem issue_rh_cases (i : Instr) (s : State) :
    (∃ c, (issue i s).rh = s32 (convRh c)) ∨
    ((issue i s).rh = s.rh ∧ (issue i s).status.getLsbD 9 = s.status.getLsbD 9) := by
  by_cases h : i.opcode ∈ [.cvtRh, .frmMeas]
  · cases i with
    | cvtRh c => exact .inl ⟨c, rfl⟩
    | frmMeas f0 f1 f2 f3 f4 f5 =>
      rw [issue_frmMeas]
      rcases checkMeasurement_cases ⟨f0, f1, f2, f3, f4, f5⟩ s with ⟨-, -, e⟩ | ⟨-, e⟩
      · exact .inl ⟨_, congrArg State.rh e⟩
      · exact .inr (e ▸ ⟨rfl, setFrameVerdict_bit ..⟩)
    | _ => simp [Instr.opcode] at h
  · exact .inr ⟨issue_rh_of_not_writer h s, issue_bit_of_not_writer (n := 9) h s⟩

theorem resultsInRange_issue {s : State} (h : ResultsInRange s) (i : Instr) : ResultsInRange (issue i s) := by
  obtain ⟨hT, hRh⟩ := h
  constructor
  · rcases issue_temp_cases i s with ⟨c, e⟩ | ⟨e, hbit⟩
    · intro _
      rw [e, toInt_s32_convT]
      exact convT_range c
    · rwa [e, hbit]
  · rcases issue_rh_cases i s with ⟨c, e⟩ | ⟨e, hbit⟩
    · intro _
      rw [e, toInt_s32_convRh]
      exact convRh_range c
    · rwa [e, hbit]

/-! ### The verdict bits -/

/-- The verdicts are in bits 1 to 7 of STATUS, and ask of the valid bits only that a 1 stays. -/
theorem verdictsAgree_of_bits {s t : State} (h : VerdictsAgree s)
    (same : ∀ n ∈ [1, 2, 3, 4, 5, 6, 7], t.status.getLsbD n = s.status.getLsbD n)
    (keeps : ∀ n ∈ [8, 9], s.status.getLsbD n = true → t.status.getLsbD n = true) : VerdictsAgree t := by
  simp only [List.forall_mem_cons] at same keeps
  obtain ⟨e1, e2, e3, e4, e5, e6, e7, -⟩ := same
  obtain ⟨k8, k9, -⟩ := keeps
  obtain ⟨hframe, hbad, hpresent, hvalid⟩ := h
  rw [VerdictsAgree, e1, e2, e3, e4, e5, e6, e7]
  exact ⟨hframe, hbad, hpresent, fun h3 => (hvalid h3).imp k8 k9⟩

/-- Only the two frame operations write a verdict (10_state R15). -/
theorem notMem_verdictWriters {o : Opcode} (hMeas : o ≠ .frmMeas) (hId : o ≠ .frmId) :
    ∀ n ∈ [1, 2, 3, 4, 5, 6, 7], o ∉ statusWriters n := by
  cases o with
  | frmMeas => exact absurd rfl hMeas
  | frmId => exact absurd rfl hId
  | _ => decide

theorem verdictsAgree_checkMeasurement {s : State} (h : VerdictsAgree s) (f : RawFrame) :
    VerdictsAgree (checkMeasurement f s) := by
  obtain ⟨-, -, hpresent, -⟩ := h
  simp only [VerdictsAgree, checkMeasurement_bit, setFrameVerdict_bit]
  exact ⟨rfl, fun hbad => (Bool.not_eq_true' _).mp hbad, hpresent, fun hacc => ⟨Bool.or_inl hacc, Bool.or_inl hacc⟩⟩

theorem verdictsAgree_checkIdentification {s : State} (h : VerdictsAgree s) (f : IdFrame) :
    VerdictsAgree (checkIdentification f s) := by
  obtain ⟨hframe, hbad, -, hvalid⟩ := h
  simp only [VerdictsAgree, checkIdentification_bit]
  exact ⟨hframe, hbad, rfl, hvalid⟩

theorem verdictsAgree_issue {s : State} (h : VerdictsAgree s) (i : Instr) : VerdictsAgree (issue i s) := by
  cases i with
  | frmMeas => exact verdictsAgree_checkMeasurement h _
  | frmId => exact verdictsAgree_checkIdentification h _
  | _ =>
    exact verdictsAgree_of_bits h
      (fun n hn => issue_bit_of_not_writer (notMem_verdictWriters (by nofun) (by nofun) n hn) s)
      (fun n hn hb => issue_keeps_one ((by decide : ∀ n ∈ [8, 9], 8 ≤ n) n hn) hb _)

/-! ### A safe state stays safe -/

theorem safeState_issue {s : State} (h : SafeState s) (i : Instr) : SafeState (issue i s) := by
  obtain ⟨hres, hready, hverdict, hrange, hpower⟩ := h
  exact ⟨(issue_reserved i s).trans hres, (issue_inFlight i s).trans hready, verdictsAgree_issue hverdict i,
    resultsInRange_issue hrange i, by rwa [KeepsPower, issue_host]⟩

/-- A sticky bit is in no verdict and is no valid bit. -/
theorem takeIllegalOp_bit_of_lt (c : IllegalCause) (s : State) {n : Nat} (h : n < 10) :
    (takeIllegalOp c s).status.getLsbD n = s.status.getLsbD n := by
  have hc : 10 ≤ (causeFlag c).bit := by cases c <;> decide
  exact putFlag_bit_of_ne (by omega) true s.status

theorem safeState_takeIllegalOp {s : State} (h : SafeState s) (c : IllegalCause) : SafeState (takeIllegalOp c s) := by
  obtain ⟨hres, hready, hverdict, ⟨hT, hRh⟩, hpower⟩ := h
  have keeps : ∀ n < 10, (takeIllegalOp c s).status.getLsbD n = s.status.getLsbD n :=
    fun n hn => takeIllegalOp_bit_of_lt c s hn
  refine ⟨(putFlag_reserved ..).trans hres, hready, ?_, ⟨?_, ?_⟩, hpower⟩
  · exact verdictsAgree_of_bits hverdict
      (fun n hn => keeps n ((by decide : ∀ n ∈ [1, 2, 3, 4, 5, 6, 7], n < 10) n hn))
      (fun _ _ hb => putFlag_true_keeps_one hb (causeFlag c))
  · rwa [keeps 8 (by decide)]
  · rwa [keeps 9 (by decide)]

theorem safeState_wordEffect {s : State} (h : SafeState s) (w : OpWord) : SafeState (wordEffect w s) :=
  wordEffect_cases w s (safeState_issue h) (safeState_takeIllegalOp h)

/-- Safety speaks of the host's moves only in that none of them is a power-up. -/
theorem safeState_setHost {s : State} (h : SafeState s) {ms : List HostMove} (hms : ms.all moveKeepsPower = true) :
    SafeState (setHost ms s) := by
  obtain ⟨hres, hready, hverdict, hrange, -⟩ := h
  exact ⟨hres, hready, hverdict, hrange, hms⟩

/-- Settles O17. -/
theorem resetStateIsSafe : Obligations.ResetStateIsSafe := by
  unfold Obligations.ResetStateIsSafe
  decide

/-- Settles O18, by the cases of a step: a word keeps the state safe, the host's later moves hold no power-up, and
nothing is in flight to complete. -/
theorem everyStepKeepsTheStateSafe : Obligations.EveryStepKeepsTheStateSafe := by
  intro s t hs h
  have ⟨_, hready, _, _, hpower⟩ := hs
  have later {m : HostMove} {rest : List HostMove} (hh : s.host = m :: rest) :
      moveKeepsPower m = true ∧ rest.all moveKeepsPower = true := by
    simpa only [KeepsPower, hh, List.all_cons, Bool.and_eq_true] using hpower
  rcases step_cases s with ⟨_, _, _, _, _, hh, -⟩ | ⟨_, _, _, hh, -⟩ | ⟨_, hf, -⟩ | ⟨w, _, _, hh, -⟩ |
    ⟨_, ⟨hh, -⟩ | ⟨_, _, hh, -⟩⟩
  · exact absurd (later hh).1 Bool.false_ne_true
  · cases h.symm.trans (step_of_rst hh)
    exact safeState_setHost resetStateIsSafe (later hh).2
  · cases hready.symm.trans hf
  · cases h.symm.trans (step_of_offer hready hh)
    exact safeState_wordEffect (safeState_setHost hs (later hh).2) w
  · cases h.symm.trans (step_of_silent hready hh)
    exact hs
  · cases h.symm.trans (step_of_noOffer hready hh)
    exact safeState_setHost hs (later hh).2

end Sys2Proof.Machine
end

section
/-!
SUPPORT. The observation through every update, so that an operation takes states with one observation to states with one
observation (70 R120), and the ports as functions of the observation; the relation of UnwrittenResultsNeverShow.
-/

namespace Sys2Proof.Machine

/-! ### The observation after an update -/

theorem putFlag_and_statusNamedMask (f : Flag) (b : Bool) (w : StatusWord) :
    putFlag f b w &&& statusNamedMask = putFlag f b (w &&& statusNamedMask) := by
  apply BitVec.eq_of_getLsbD_eq
  intro n _
  have hf := flag_bit_lt f
  by_cases e : n = f.bit
  · simp [BitVec.getLsbD_and, putFlag_bit, statusNamedMask_bit, e, hf]
  · simp [BitVec.getLsbD_and, putFlag_bit, e]

theorem observe_writeCrc (v : Byte) (s : State) : observe (writeCrc v s) = { observe s with crc := v } := rfl

/-- A flag that is no valid bit shows in the observed STATUS alone. -/
theorem observe_setFlag {f : Flag} (hT : f ≠ .tValid) (hRh : f ≠ .rhValid) (b : Bool) (s : State) :
    observe (setFlag f b s) = { observe s with status := putFlag f b (observe s).status } := by
  have flagT : (setFlag f b s).flag .tValid = s.flag .tValid := getFlag_putFlag_other hT.symm ..
  have flagRh : (setFlag f b s).flag .rhValid = s.flag .rhValid := getFlag_putFlag_other hRh.symm ..
  simp only [observe, flagT, flagRh, statusRegister, setFlag_status, putFlag_and_statusNamedMask, setFlag_crc,
    setFlag_temp, setFlag_rh]

theorem observe_writeTemp (v : Result) (s : State) :
    observe (writeTemp v s) =
      { observe s with temp := some v, status := putFlag .tValid true (observe s).status } := by
  have flagT : (writeTemp v s).flag .tValid = true := getFlag_putFlag_same ..
  have flagRh : (writeTemp v s).flag .rhValid = s.flag .rhValid := getFlag_putFlag_other (by decide) ..
  simp only [observe, flagT, flagRh, statusRegister, writeTemp_status, putFlag_and_statusNamedMask, writeTemp_crc,
    writeTemp_temp, writeTemp_rh, if_true]

theorem observe_writeRh (v : Result) (s : State) :
    observe (writeRh v s) =
      { observe s with rh := some v, status := putFlag .rhValid true (observe s).status } := by
  have flagT : (writeRh v s).flag .tValid = s.flag .tValid := getFlag_putFlag_other (by decide) ..
  have flagRh : (writeRh v s).flag .rhValid = true := getFlag_putFlag_same ..
  simp only [observe, flagT, flagRh, statusRegister, writeRh_status, putFlag_and_statusNamedMask, writeRh_crc,
    writeRh_temp, writeRh_rh, if_true]

/-! ### Operations keep equal observations equal -/

section
variable {s u : State} (h : observe s = observe u)
include h

theorem crc_of_observe : s.crc = u.crc := congrArg Observation.crc h

theorem observe_setFlag_congr {f : Flag} (hT : f ≠ .tValid) (hRh : f ≠ .rhValid) (b : Bool) :
    observe (setFlag f b s) = observe (setFlag f b u) := by
  rw [observe_setFlag hT hRh, observe_setFlag hT hRh, h]

theorem observe_writeCrc_congr (v : Byte) : observe (writeCrc v s) = observe (writeCrc v u) := by
  rw [observe_writeCrc, observe_writeCrc, h]

theorem observe_writeTemp_congr (v : Result) : observe (writeTemp v s) = observe (writeTemp v u) := by
  rw [observe_writeTemp, observe_writeTemp, h]

theorem observe_writeRh_congr (v : Result) : observe (writeRh v s) = observe (writeRh v u) := by
  rw [observe_writeRh, observe_writeRh, h]

theorem observe_setFrameVerdict_congr (tOk rhOk : Bool) :
    observe (setFrameVerdict tOk rhOk s) = observe (setFrameVerdict tOk rhOk u) := by
  have h1 := observe_setFlag_congr h (f := .tOk) (by decide) (by decide) tOk
  have h2 := observe_setFlag_congr h1 (f := .rhOk) (by decide) (by decide) rhOk
  have h3 := observe_setFlag_congr h2 (f := .frameOk) (by decide) (by decide) (tOk && rhOk)
  exact observe_setFlag_congr h3 (by decide) (by decide) _

theorem observe_setIdVerdict_congr (idCrcOk sig : Bool) :
    observe (setIdVerdict idCrcOk sig s) = observe (setIdVerdict idCrcOk sig u) := by
  have h1 := observe_setFlag_congr h (f := .idCrcOk) (by decide) (by decide) idCrcOk
  have h2 := observe_setFlag_congr h1 (f := .sigOk) (by decide) (by decide) sig
  exact observe_setFlag_congr h2 (by decide) (by decide) _

theorem observe_checkMeasurement_congr (f : RawFrame) :
    observe (checkMeasurement f s) = observe (checkMeasurement f u) := by
  have judged := observe_setFrameVerdict_congr h f.tHalf.passes f.rhHalf.passes
  unfold checkMeasurement
  split
  · exact observe_writeRh_congr (observe_writeTemp_congr judged _) _
  · exact judged

/-- No operation lets a result without a value into the observation: what it reads, CRC, is observed. -/
theorem observe_issue_congr (i : Instr) : observe (issue i s) = observe (issue i u) := by
  cases i with
  | nop => exact h
  | crcInit | crcPair _ _ => exact observe_writeCrc_congr h _
  | crcByte b =>
    rw [issue_crcByte, issue_crcByte, crc_of_observe h]
    exact observe_writeCrc_congr h _
  | crcChk c =>
    rw [issue_crcChk, issue_crcChk, crc_of_observe h]
    exact observe_setFlag_congr h (by decide) (by decide) _
  | crcVfy d0 d1 c => exact observe_setFlag_congr (observe_writeCrc_congr h _) (by decide) (by decide) _
  | cvtT c => exact observe_writeTemp_congr h _
  | cvtRh c => exact observe_writeRh_congr h _
  | frmMeas => exact observe_checkMeasurement_congr h _
  | frmId => exact observe_setIdVerdict_congr h _ _

theorem observe_takeIllegalOp_congr (c : IllegalCause) :
    observe (takeIllegalOp c s) = observe (takeIllegalOp c u) :=
  observe_setFlag_congr h (by cases c <;> decide) (by cases c <;> decide) true

theorem observe_wordEffect_congr (w : OpWord) : observe (wordEffect w s) = observe (wordEffect w u) := by
  cases hd : decode w with
  | ok i => rw [wordEffect_of_ok hd, wordEffect_of_ok hd, observe_issue_congr h]
  | error c => rw [wordEffect_of_error hd, wordEffect_of_error hd, observe_takeIllegalOp_congr h]

end

/-! ### The ports read the observation -/

theorem readCrcOut_eq_observe (n : Nat) (s : State) :
    readCrcOut n s = if s.busy then Config.busyCrcOut n else (observe s).crc := rfl

theorem readStatus_eq_observe (n : Nat) (s : State) :
    readStatus n s = if s.busy then Config.busyStatus n else (observe s).status := rfl

theorem readTemp_eq_observe (n : Nat) (s : State) :
    readTemp n s = if s.busy then Config.busyTemp n else (observe s).temp.getD (Config.unwrittenTemp n) := by
  cases v : s.flag .tValid <;> simp [readTemp, observe, v]

theorem readRh_eq_observe (n : Nat) (s : State) :
    readRh n s = if s.busy then Config.busyRh n else (observe s).rh.getD (Config.unwrittenRh n) := by
  cases v : s.flag .rhValid <;> simp [readRh, observe, v]

/-- Two blocks the host cannot tell apart, about to get the same moves. -/
structure Indistinguishable (s u : State) : Prop where
  host : s.host = u.host
  inFlight : s.inFlight = u.inFlight
  observed : observe s = observe u

namespace Indistinguishable

variable {s u : State} (h : Indistinguishable s u)
include h

theorem wordEffect_congr (w : OpWord) : Indistinguishable (wordEffect w s) (wordEffect w u) where
  host := by rw [wordEffect_host, wordEffect_host, h.host]
  inFlight := by rw [wordEffect_inFlight, wordEffect_inFlight, h.inFlight]
  observed := observe_wordEffect_congr h.observed w

theorem setHost_congr (ms : List HostMove) : Indistinguishable (setHost ms s) (setHost ms u) :=
  ⟨rfl, h.inFlight, h.observed⟩

theorem clearInFlight_congr : Indistinguishable (clearInFlight s) (clearInFlight u) :=
  ⟨h.host, rfl, h.observed⟩

/-- The noninterference of one step (70 R120). -/
theorem step_congr : ∃ s' u', step s = .next s' ∧ step u = .next u' ∧ Indistinguishable s' u' := by
  have ⟨hhost, hflight, _⟩ := h
  rcases step_cases s with ⟨_, _, _, _, _, hh, -⟩ | ⟨_, _, _, hh, -⟩ | ⟨w, hf, hq, -⟩ | ⟨w, rest, hf, hh, -⟩ |
    ⟨hf, ⟨hh, -⟩ | ⟨_, rest, hh, -⟩⟩
  · exact ⟨_, _, step_of_powerUp hh, step_of_powerUp (hhost ▸ hh), rfl, rfl, rfl⟩
  · exact ⟨_, _, step_of_rst hh, step_of_rst (hhost ▸ hh), rfl, rfl, rfl⟩
  · exact ⟨_, _, step_of_inFlight hf hq, step_of_inFlight (hflight ▸ hf) (hhost ▸ hq),
      h.clearInFlight_congr.wordEffect_congr w⟩
  · exact ⟨_, _, step_of_offer hf hh, step_of_offer (hflight ▸ hf) (hhost ▸ hh),
      (h.setHost_congr rest).wordEffect_congr w⟩
  · exact ⟨_, _, step_of_silent hf hh, step_of_silent (hflight ▸ hf) (hhost ▸ hh), h⟩
  · exact ⟨_, _, step_of_noOffer hf hh, step_of_noOffer (hflight ▸ hf) (hhost ▸ hh), h.setHost_congr rest⟩

theorem busy_eq : s.busy = u.busy := congrArg Option.isSome h.inFlight

theorem readTemp_eq (n : Nat) : readTemp n s = readTemp n u := by
  rw [readTemp_eq_observe, readTemp_eq_observe, h.busy_eq, h.observed]

theorem readRh_eq (n : Nat) : readRh n s = readRh n u := by
  rw [readRh_eq_observe, readRh_eq_observe, h.busy_eq, h.observed]

/-- Every reading of the two blocks agrees, the host's and a claim's. -/
theorem readings_eq (n : Nat) :
    readCrcOut n s = readCrcOut n u ∧ readStatus n s = readStatus n u ∧
    readTemp n s = readTemp n u ∧ readRh n s = readRh n u ∧
    claimTemp n s = claimTemp n u ∧ claimRh n s = claimRh n u := by
  refine ⟨?_, ?_, h.readTemp_eq n, h.readRh_eq n, ?_, ?_⟩
  · rw [readCrcOut_eq_observe, readCrcOut_eq_observe, h.busy_eq, h.observed]
  · rw [readStatus_eq_observe, readStatus_eq_observe, h.busy_eq, h.observed]
  · rw [claimTemp, claimTemp, flag_of_observe h.observed, h.readTemp_eq]
  · rw [claimRh, claimRh, flag_of_observe h.observed, h.readRh_eq]

end Indistinguishable

end Sys2Proof.Machine
end

section
/-!
SUPPORT. The statements on registers, ports and the handshake, each assembled from the lemmas above.
-/

namespace Sys2Proof.Machine

/-- Settles O11: in a quiet step only a word changes STATUS, and no word clears a bit from 8 up. -/
theorem onlyResetClearsStickyAndValidBits : Obligations.OnlyResetClearsStickyAndValidBits := by
  intro s t n hq h hn hs
  have h8 : 8 ≤ n := (by decide : ∀ n ∈ [8, 9, 10, 11], 8 ≤ n) n hn
  rcases quiet_step_cases hq h with e | ⟨w, u, e, rfl⟩
  · rwa [e]
  · exact wordEffect_keeps_one h8 (e ▸ hs) w

/-- Settles O13. -/
theorem everyStepCompletesAndLeavesTheBlockReady : Obligations.EveryStepCompletesAndLeavesTheBlockReady := by
  intro s
  obtain ⟨t, h, hready⟩ := step_completes s
  exact ⟨t, h, hready, by rw [opReady, State.busy, hready]; rfl⟩

/-- Settles O14: the drive has no `rst`, so the word in flight runs, and a word keeps the host's moves. -/
theorem busyBlockCompletesAndTheOfferWaits : Obligations.BusyBlockCompletesAndTheOfferWaits := by
  intro s w v opValid rest hf hh
  have h : step s = .next (wordEffect w (clearInFlight s)) := step_of_inFlight hf (by rw [hh]; rfl)
  exact ⟨h.trans (execWord_eq_next_wordEffect ..).symm, _, h, wordEffect_host ..⟩

/-- Settles O20. -/
theorem reservedStatusBitsReadZeroAndAreNotWritten : Obligations.ReservedStatusBitsReadZeroAndAreNotWritten := by
  constructor
  · intro s n h
    have hmask : statusNamedMask &&& 0xF000#16 = 0#16 := by decide
    rw [readStatus, h, if_neg Bool.false_ne_true, statusRegister, BitVec.and_assoc, hmask, BitVec.and_zero]
  · intro w s t h
    cases h.symm.trans (execWord_eq_next_wordEffect w s)
    exact wordEffect_reserved w s

/-- Settles O21. -/
theorem operationsWriteOnlyTheirStatusBits : Obligations.OperationsWriteOnlyTheirStatusBits := by
  intro i s t n h hw
  cases eq_issue_of_exec h
  exact issue_bit_of_not_writer hw s

/-- Settles O22. -/
theorem operationsWriteOnlyTheirRegisters : Obligations.OperationsWriteOnlyTheirRegisters := by
  intro i s t h
  cases eq_issue_of_exec h
  exact ⟨(issue_crc_of_not_writer · s), (issue_temp_of_not_writer · s), (issue_rh_of_not_writer · s),
    issue_inFlight i s, issue_host i s⟩

/-- Settles O23, by the two-state relation `Indistinguishable`: a step keeps it, and every reading respects it. -/
theorem unwrittenResultsNeverShow : Obligations.UnwrittenResultsNeverShow := by
  intro s u hhost hflight hobs
  obtain ⟨s', u', hs, hu, h'⟩ := Indistinguishable.step_congr ⟨hhost, hflight, hobs⟩
  exact ⟨s', u', hs, hu, h'.observed, h'.host, h'.inFlight, h'.readings_eq⟩

/-- With the reserved bits 0, STATUS reads as it is stored (10_state R16). -/
theorem statusRegister_of_reservedClear {s : State} (h : ReservedClear s) : statusRegister s = s.status := by
  have hmasks : statusNamedMask ||| 0xF000#16 = BitVec.allOnes 16 := by decide
  calc s.status &&& statusNamedMask
      = s.status &&& statusNamedMask ||| s.status &&& 0xF000#16 := by rw [h, BitVec.or_zero]
    _ = s.status &&& (statusNamedMask ||| 0xF000#16) := BitVec.and_or_distrib_left.symm
    _ = s.status := by rw [hmasks, BitVec.and_allOnes]

/-- Settles O24. -/
theorem portsShowTheRegisters : Obligations.PortsShowTheRegisters := by
  intro s n h
  refine ⟨?_, fun hres => ?_, ?_, ?_, claimTemp_of_ready h n, claimRh_of_ready h n⟩
  · rw [readCrcOut, h, if_neg Bool.false_ne_true]
  · rw [readStatus, h, if_neg Bool.false_ne_true, statusRegister_of_reservedClear hres]
  · rw [readTemp, h, if_neg Bool.false_ne_true]
    rfl
  · rw [readRh, h, if_neg Bool.false_ne_true]
    rfl

/-- Settles O9: at reset nothing is in flight, so the ports show the registers, and both valid bits are 0. -/
theorem resetStateIsAsSpecified : Obligations.ResetStateIsAsSpecified := by
  refine ⟨rfl, rfl, rfl, fun n => ?_⟩
  obtain ⟨hCrc, hStatus, hTemp, hRh, hClaimTemp, hClaimRh⟩ := portsShowTheRegisters State.reset n rfl
  exact ⟨hTemp, hRh, hClaimTemp, hClaimRh, hCrc, hStatus (by decide)⟩

end Sys2Proof.Machine
end

section
/-!
SUPPORT. A run over the words the host issues (20_memory R35): the host's moves to come are neither read nor written by
a word, so each step takes one word off the port and leaves the words after it to the rest of the run.
-/

namespace Sys2Proof.Machine

/-- An operation does not read the host's moves. -/
theorem issue_setHost (i : Instr) (ms : List HostMove) (s : State) :
    issue i (setHost ms s) = setHost ms (issue i s) := by
  cases i with
  | frmMeas f0 f1 f2 f3 f4 f5 =>
    simp only [issue_frmMeas, checkMeasurement]
    split <;> rfl
  | _ => rfl

/-- Nor does a word, legal or not. -/
theorem wordEffect_setHost (w : OpWord) (ms : List HostMove) (s : State) :
    wordEffect w (setHost ms s) = setHost ms (wordEffect w s) := by
  cases h : decode w with
  | ok i => rw [wordEffect_of_ok h, wordEffect_of_ok h, issue_setHost]
  | error c =>
    rw [wordEffect_of_error h, wordEffect_of_error h]
    rfl

theorem execWords_cons (w : OpWord) (ws : List OpWord) (s : State) :
    execWords (w :: ws) s = execWords ws (wordEffect w s) := by
  rw [execWords, execWord_eq_next_wordEffect]

theorem core_run_succ {s t : State} (h : step s = .next t) (k : Nat) :
    Sys2Proof.core.run (k + 1) s = Sys2Proof.core.run k t := by
  have hcore : Sys2Proof.core.step s = .next t := h
  simp only [Host.Core.run, hcore]

/-- The first step over issued words runs the first of them; the rest stay issued. -/
theorem step_issueWords_cons {s : State} (h : s.inFlight = none) (w : OpWord) (ws : List OpWord) :
    step (issueWords (w :: ws) s) = .next (issueWords ws (wordEffect w s)) :=
  (step_of_offer (s := issueWords (w :: ws) s) h rfl).trans (congrArg _ (wordEffect_setHost w (ws.map offer) s))

/-- From every ready state a run over issued words is the words executed in sequence: a word leaves the block ready. -/
theorem core_run_issueWords (ws : List OpWord) {s : State} (h : s.inFlight = none) :
    Sys2Proof.core.run ws.length (issueWords ws s) = execWords ws (setHost [] s) := by
  induction ws generalizing s with
  | nil => rfl
  | cons w ws ih =>
    have hready : (wordEffect w s).inFlight = none := (wordEffect_inFlight w s).trans h
    rw [List.length_cons, core_run_succ (step_issueWords_cons h w ws), ih hready, execWords_cons, wordEffect_setHost]

/-- Settles O7: the step is the effect of the word offered, which is that of its operation. -/
theorem stepRunsTheDecodedOperation : Obligations.StepRunsTheDecodedOperation := by
  intro s w i rest hf hh hd
  calc step s
      = .next (wordEffect w (setHost rest s)) := step_of_offer hf hh
    _ = execWord w (setHost rest s) := (execWord_eq_next_wordEffect ..).symm
    _ = exec i (setHost rest s) := execWord_of_ok hd _

/-- Settles O16, by induction on the words. -/
theorem issuedWordsRunInOrder : Obligations.IssuedWordsRunInOrder :=
  fun ws _ h => core_run_issueWords ws h

end Sys2Proof.Machine
end

section
/-!
SUPPORT. Repeating an operation (20_memory R33): every write of a value that does not depend on what is overwritten
is idempotent, and CRC.BYTE alone writes a value that does.
-/

namespace Sys2Proof.Machine

/-- States are equal if their STATUS is bit by bit and the rest is field by field. -/
theorem state_eq_of_bits {s t : State} (hcrc : s.crc = t.crc) (hbits : ∀ n, s.status.getLsbD n = t.status.getLsbD n)
    (htemp : s.temp = t.temp) (hrh : s.rh = t.rh) (hflight : s.inFlight = t.inFlight) (hhost : s.host = t.host) :
    s = t := by
  have hstatus : s.status = t.status := BitVec.eq_of_getLsbD_eq fun n _ => hbits n
  cases s
  cases t
  simp_all only

theorem putFlag_putFlag_same (f : Flag) (b : Bool) (w : StatusWord) : putFlag f b (putFlag f b w) = putFlag f b w := by
  apply BitVec.eq_of_getLsbD_eq
  intro n _
  by_cases h : n = f.bit <;> simp only [putFlag_bit, h, if_true, if_false]

theorem setFlag_setFlag_same (f : Flag) (b : Bool) (s : State) : setFlag f b (setFlag f b s) = setFlag f b s := by
  simp only [setFlag_spec, putFlag_putFlag_same]

theorem writeTemp_writeTemp_same (v : Result) (s : State) : writeTemp v (writeTemp v s) = writeTemp v s :=
  setFlag_setFlag_same .tValid true { s with temp := v }

theorem writeRh_writeRh_same (v : Result) (s : State) : writeRh v (writeRh v s) = writeRh v s :=
  setFlag_setFlag_same .rhValid true { s with rh := v }

/-- What a measurement frame leaves in the results depends on what they were only if the frame is rejected. -/
theorem checkMeasurement_results (f : RawFrame) (s : State) :
    (checkMeasurement f s).temp =
      (if f.tHalf.passes && f.rhHalf.passes then s32 (convT f.tHalf.code) else s.temp) ∧
    (checkMeasurement f s).rh =
      (if f.tHalf.passes && f.rhHalf.passes then s32 (convRh f.rhHalf.code) else s.rh) := by
  rcases checkMeasurement_cases f s with ⟨ht, hr, h⟩ | ⟨hrej, h⟩
  · rw [h, ht, hr]
    exact ⟨rfl, rfl⟩
  · rw [h, hrej]
    exact ⟨rfl, rfl⟩

theorem checkMeasurement_checkMeasurement_same (f : RawFrame) (s : State) :
    checkMeasurement f (checkMeasurement f s) = checkMeasurement f s := by
  obtain ⟨htemp, hrh⟩ := checkMeasurement_results f s
  obtain ⟨htemp', hrh'⟩ := checkMeasurement_results f (checkMeasurement f s)
  refine state_eq_of_bits (checkMeasurement_crc ..) (fun n => ?_) ?_ ?_ (checkMeasurement_inFlight ..)
    (checkMeasurement_host ..)
  · by_cases hvalid : n = 9 ∨ n = 8
    · simp only [checkMeasurement_bit, if_pos hvalid, ← Bool.or_assoc, Bool.or_self]
    · simp only [checkMeasurement_bit, if_neg hvalid, setFrameVerdict_bit]
      split_ifs <;> rfl
  · rw [htemp', htemp]
    split <;> rfl
  · rw [hrh', hrh]
    split <;> rfl

theorem checkIdentification_checkIdentification_same (f : IdFrame) (s : State) :
    checkIdentification f (checkIdentification f s) = checkIdentification f s := by
  refine state_eq_of_bits rfl (fun n => ?_) rfl rfl rfl rfl
  simp only [checkIdentification_bit]
  split_ifs <;> rfl

/-- Repeating an operation changes nothing more; CRC.CHK reads CRC, which it does not write. -/
theorem issue_issue_same {i : Instr} (h : isCrcByte i = false) (s : State) : issue i (issue i s) = issue i s := by
  cases i with
  | nop | crcInit | crcPair _ _ => rfl
  | crcByte b => exact absurd h.symm Bool.false_ne_true
  | crcChk c => exact setFlag_setFlag_same .crcOk (s.crc == c) s
  | crcVfy d0 d1 c => exact setFlag_setFlag_same .crcOk (verify [d0, d1] c) (writeCrc (crc8 [d0, d1]) s)
  | cvtT c => exact writeTemp_writeTemp_same _ s
  | cvtRh c => exact writeRh_writeRh_same _ s
  | frmMeas => exact checkMeasurement_checkMeasurement_same _ s
  | frmId => exact checkIdentification_checkIdentification_same _ s

/-- A sticky bit that is set stays set. -/
theorem takeIllegalOp_takeIllegalOp_same (c : IllegalCause) (s : State) :
    takeIllegalOp c (takeIllegalOp c s) = takeIllegalOp c s :=
  setFlag_setFlag_same (causeFlag c) true s

/-- CRC.BYTE reads the CRC it writes: a second one moves the register on (40_crc R56, R60). -/
theorem issue_crcByte_twice_ne :
    issue (.crcByte 0xBE#8) (issue (.crcByte 0xBE#8) State.reset) ≠ issue (.crcByte 0xBE#8) State.reset := by
  decide +kernel

/-- Settles O25: operation by operation, an illegal word by its sticky bit, and CRC.BYTE fails from reset with 0xBE. -/
theorem everyOperationButCrcByteIsIdempotent : Obligations.EveryOperationButCrcByteIsIdempotent := by
  refine ⟨fun i s h => ⟨issue i s, exec_eq_next_issue i s, ?_⟩,
    fun w c s h => ⟨takeIllegalOp c s, execWord_of_error h s, ?_⟩,
    0xBE#8, State.reset, _, exec_eq_next_issue .., fun h => issue_crcByte_twice_ne (eq_issue_of_exec h).symm⟩
  · rw [exec_eq_next_issue, issue_issue_same h]
  · rw [execWord_of_error h, takeIllegalOp_takeIllegalOp_same]

end Sys2Proof.Machine
end

section
/-!
SUPPORT. The CRC bit by bit (20_memory R26, 40_crc R56): a shift step of a register with a byte XORed in takes the
byte's top bit serially and leaves the rest of the byte, moved up by one, still XORed in.
-/

namespace Sys2Proof.Machine

/-- A shift step on `r ^^^ b` is the serial step on `r` with the top bit of `b`, and `b` moves up by one. -/
theorem crc8Step_xor (r b : Byte) : crc8Step (r ^^^ b) = bitSerialStep r (b.getLsbD 7) ^^^ b <<< 1 := by
  simp only [crc8Step, bitSerialStep, crcPoly, BitVec.getLsbD_xor, BitVec.shiftLeft_xor_distrib]
  split
  · ac_rfl
  · rfl

/-- The top `n` bits of a byte, bit 7 first, zeros after its last. -/
def topBits : Nat → Byte → List Bool
  | 0, _ => []
  | n + 1, b => b.getLsbD 7 :: topBits n (b <<< 1)

theorem topBits_eight (b : Byte) : topBits 8 b = bitsMsbFirst b := by
  simp [topBits, bitsMsbFirst, ← BitVec.shiftLeft_add]

/-- After `n` shift steps the top `n` bits of `b` are taken and what is left of `b` is still XORed in. -/
theorem crc8Steps_xor (n : Nat) (r b : Byte) :
    crc8Steps n (r ^^^ b) = (topBits n b).foldl bitSerialStep r ^^^ b <<< n := by
  induction n generalizing r b with
  | zero => simp only [crc8Steps, topBits, List.foldl_nil, BitVec.shiftLeft_zero]
  | succ n ih =>
    rw [crc8Steps, crc8Step_xor, ih, topBits, List.foldl_cons, ← BitVec.shiftLeft_add, Nat.add_comm 1 n]

/-- Settles O29: after eight shift steps nothing of the byte is left in the register but what its bits did. -/
theorem crcUpdateTakesTheBitsMsbFirst : Obligations.CrcUpdateTakesTheBitsMsbFirst := by
  intro r b
  rw [crc8Update, crc8Steps_xor, topBits_eight, BitVec.shiftLeft_eq_zero (Nat.le_refl 8), BitVec.xor_zero]

end Sys2Proof.Machine
end

section
/-!
SUPPORT. The fields of an encoded word (20_memory R27, R29, 30_encoding R41): which byte each byte field holds, and
adjacent byte fields read as one, the higher first.
-/

namespace Sys2Proof

/-! ### Byte fields -/

@[simp] theorem byteField_or (v w : OpWord) (k : Nat) : byteField (v ||| w) k = byteField v k ||| byteField w k :=
  BitVec.extractLsb'_or

@[simp] theorem byteField_placeByte_same (v : Byte) {lo : Nat} (h : lo + 8 ≤ 64) :
    byteField (placeByte v lo) lo = v := by
  apply BitVec.eq_of_getLsbD_eq
  intro n hn
  have hin : lo + n < 64 := by omega
  rw [byteField, BitVec.getLsbD_extractLsb', Laws.EncodedFields.placeByte_bit, Nat.add_sub_cancel_left]
  simp [hn, hin]

@[simp] theorem byteField_placeByte_disjoint (v : Byte) {lo k : Nat} (h : lo + 8 ≤ k ∨ k + 8 ≤ lo) :
    byteField (placeByte v lo) k = 0#8 := by
  apply BitVec.eq_of_getLsbD_eq
  intro n hn
  rw [byteField, BitVec.getLsbD_extractLsb', Laws.EncodedFields.placeByte_bit, BitVec.getLsbD_zero]
  rcases h with h | h
  · rw [BitVec.getLsbD_of_ge v _ (by omega)]
    simp
  · rw [decide_eq_false (show ¬ lo ≤ k + n by omega)]
    simp

/-- Below the opcode a word holds its payload (30_encoding R40). -/
theorem extractLsb'_encode {k n : Nat} (h : k + n ≤ 56) (i : Instr) :
    (encode i).extractLsb' k n = (encodePayload i).extractLsb' k n := by
  apply BitVec.eq_of_getLsbD_eq
  intro m hm
  have hopc : ¬ 56 ≤ k + m := by omega
  rw [BitVec.getLsbD_extractLsb', BitVec.getLsbD_extractLsb', Laws.EncodedFields.encode_bit,
    Laws.EncodedFields.placeByte_bit, decide_eq_false hopc, Bool.false_and, Bool.and_false, Bool.false_or]

theorem byteField_encode {k : Nat} (h : k + 8 ≤ 56) (i : Instr) :
    byteField (encode i) k = byteField (encodePayload i) k := extractLsb'_encode h i

/-! ### Adjacent fields -/

/-- A field is its higher part followed by its lowest byte. -/
theorem extractLsb'_eq_append_byte (w : OpWord) (lo n : Nat) :
    w.extractLsb' lo (n + 8) = w.extractLsb' (lo + 8) n ++ byteField w lo :=
  (BitVec.extractLsb'_append_extractLsb'_eq_extractLsb' rfl).symm

theorem extractLsb'_sixteen (w : OpWord) (lo : Nat) :
    w.extractLsb' lo 16 = byteField w (lo + 8) ++ byteField w lo :=
  extractLsb'_eq_append_byte w lo 8

theorem extractLsb'_twentyFour (w : OpWord) (lo : Nat) :
    w.extractLsb' lo 24 = byteField w (lo + 16) ++ byteField w (lo + 8) ++ byteField w lo :=
  (extractLsb'_eq_append_byte w lo 16).trans (congrArg (· ++ byteField w lo) (extractLsb'_sixteen w (lo + 8)))

theorem extractLsb'_fortyEight (w : OpWord) :
    w.extractLsb' 0 48 =
      byteField w 40 ++ byteField w 32 ++ byteField w 24 ++ byteField w 16 ++ byteField w 8 ++ byteField w 0 := by
  rw [← extractLsb'_twentyFour w 24, ← extractLsb'_eq_append_byte w 16 24, ← extractLsb'_eq_append_byte w 8 32,
    ← extractLsb'_eq_append_byte w 0 40]

/-! ### The payloads -/

/-- Two placed bytes are one code, the first byte high (20_memory R27). -/
theorem extractLsb'_placedPair (hi lo : Byte) :
    (placeByte hi 8 ||| placeByte lo 0).extractLsb' 0 16 = Machine.be16 hi lo := by
  rw [extractLsb'_sixteen, Machine.be16]
  simp

theorem extractLsb'_placedTriple (b0 b1 b2 : Byte) :
    (placeByte b0 16 ||| placeByte b1 8 ||| placeByte b2 0).extractLsb' 0 24 = b0 ++ b1 ++ b2 := by
  rw [extractLsb'_twentyFour]
  simp

section
variable (f0 f1 f2 f3 f4 f5 : Byte)

/-- Byte `j` of a measurement frame stands at bit 8 * (5 - j) (20_memory R29). -/
theorem byteField_frmMeas {j : Nat} (h : j < 6) :
    byteField (encode (.frmMeas f0 f1 f2 f3 f4 f5)) (8 * (6 - 1 - j)) = [f0, f1, f2, f3, f4, f5].getD j 0#8 := by
  rw [byteField_encode (by omega), encodePayload]
  interval_cases j <;> simp

theorem extractLsb'_frmMeas :
    (encode (.frmMeas f0 f1 f2 f3 f4 f5)).extractLsb' 0 48 = f0 ++ f1 ++ f2 ++ f3 ++ f4 ++ f5 := by
  rw [extractLsb'_encode (by decide), encodePayload, extractLsb'_fortyEight]
  simp

end

/-- The payload of CVT.T is its code (30_encoding R41). -/
theorem extractLsb'_cvtT {k n : Nat} (h : k + n ≤ 16) (code : Code) :
    (encode (.cvtT code)).extractLsb' k n = code.extractLsb' k n := by
  rw [extractLsb'_encode (by omega), encodePayload, BitVec.extractLsb'_setWidth_of_le (by omega)]

theorem toNat_be16 (hi lo : Byte) : (Machine.be16 hi lo).toNat = hi.toNat * 256 + lo.toNat := by
  rw [Machine.be16, BitVec.toNat_append, ← Nat.shiftLeft_add_eq_or_of_lt lo.isLt, Nat.shiftLeft_eq]

/-- Settles O5: below its opcode a word is its payload, whose byte fields, read as one, are the bytes in order. -/
theorem payloadsHoldWireBytesBigEndian : Obligations.PayloadsHoldWireBytesBigEndian := by
  refine ⟨fun f0 f1 f2 f3 f4 f5 => ⟨extractLsb'_frmMeas .., fun j hj => byteField_frmMeas _ _ _ _ _ _ hj⟩,
    fun b0 b1 b2 => ⟨?_, ?_⟩, fun hi lo => ⟨?_, ?_, ?_, toNat_be16 hi lo⟩⟩
  · rw [extractLsb'_encode (by decide), encodePayload, extractLsb'_placedTriple]
  · rw [extractLsb'_encode (by decide), encodePayload, extractLsb'_placedTriple]
  · rw [extractLsb'_encode (by decide), encodePayload, extractLsb'_placedPair]
  · rw [extractLsb'_cvtT (by decide), Machine.be16, BitVec.extractLsb'_append_eq_left]
  · rw [extractLsb'_cvtT (by decide), Machine.be16, BitVec.extractLsb'_append_eq_right]

end Sys2Proof
end

section
/-!
SUPPORT. Decoding inverts encoding and encoding inverts decoding (30_encoding R40 to R49): the fields of a word that
decodes to an operation, said once; a word is its opcode, its reserved bits and its operand bits, and the last are
determined by the operands they are read as.
-/

namespace Sys2Proof

open Sys2Proof.Laws.EncodedFields (operandBits)

/-! ### The opcode map -/

/-- Every opcode has its row, with its byte and its format. -/
theorem row_mem_opcodeMap (o : Opcode) : (o.byte, o, o.format) ∈ opcodeMap := by
  cases o <;> decide

/-- A row holds the byte and the format of its opcode. -/
theorem eq_of_row {b : Byte} {o : Opcode} {f : Format} (h : (b, o, f) ∈ opcodeMap) : b = o.byte ∧ f = o.format := by
  have everyRow : ∀ row ∈ opcodeMap, row.1 = row.2.1.byte ∧ row.2.2 = row.2.1.format := by decide
  exact everyRow _ h

/-! ### What decodes to an operation -/

/-- THE WORDS OF AN OPERATION: its opcode byte, its format's reserved bits 0, and its operands in their fields. -/
theorem decode_eq_ok_iff {w : OpWord} {i : Instr} :
    decode w = .ok i ↔ opcodeField w = i.opcode.byte ∧ w &&& reservedMask i.opcode.format = 0#64 ∧
      readOperands i.opcode w = i := by
  constructor
  · intro h
    rcases decode_cases w with ⟨-, hbad⟩ | ⟨o, f, hrow, ⟨hrsv, hok⟩ | ⟨-, hbad⟩⟩
    · cases hbad.symm.trans h
    · cases hok.symm.trans h
      obtain ⟨hopc, rfl⟩ := eq_of_row hrow
      rw [readOperands_opcode]
      exact ⟨hopc, hrsv, rfl⟩
    · cases hbad.symm.trans h
  · rintro ⟨hopc, hrsv, hi⟩
    rw [decode_of_row (hopc ▸ row_mem_opcodeMap i.opcode), if_pos hrsv, hi]

/-- An encoded word has its operation's opcode byte and no reserved bit. -/
theorem encode_fields (i : Instr) : Laws.EncodedFields.Statement i := by
  cases i with
  | nop => exact Laws.EncodedFields.nop
  | crcInit => exact Laws.EncodedFields.crcInit
  | crcByte b => exact Laws.EncodedFields.crcByte b
  | crcChk c => exact Laws.EncodedFields.crcChk c
  | crcPair d0 d1 => exact Laws.EncodedFields.crcPair d0 d1
  | crcVfy d0 d1 c => exact Laws.EncodedFields.crcVfy d0 d1 c
  | cvtT code => exact Laws.EncodedFields.cvtT code
  | cvtRh code => exact Laws.EncodedFields.cvtRh code
  | frmMeas f0 f1 f2 f3 f4 f5 => exact Laws.EncodedFields.frmMeas f0 f1 f2 f3 f4 f5
  | frmId i0 i1 c => exact Laws.EncodedFields.frmId i0 i1 c

theorem codeField_encode (i : Instr) : codeField (encode i) = (encodePayload i).extractLsb' 0 16 :=
  extractLsb'_encode (by decide) i

/-- The operand fields of an encoded word hold the operands. -/
theorem readOperands_encode (i : Instr) : readOperands i.opcode (encode i) = i := by
  cases i <;> simp [readOperands, Instr.opcode, byteField_encode, codeField_encode, encodePayload,
    BitVec.extractLsb'_setWidth_of_le]

/-- Settles O1: the encoded word has the fields by which the decoder finds the operation. -/
theorem decodeOfEncodeIsTheOperation : Obligations.DecodeOfEncodeIsTheOperation := by
  intro i
  obtain ⟨hopc, hrsv⟩ := encode_fields i
  exact decode_eq_ok_iff.mpr ⟨hopc, hrsv, readOperands_encode i⟩

/-! ### One word for each operation -/

/-- The operands determine every operand bit of the word they are read from. -/
theorem operandBits_eq_of_readOperands_eq {o : Opcode} {v w : OpWord} (h : readOperands o v = readOperands o w) :
    v.extractLsb' 0 (operandBits o.format) = w.extractLsb' 0 (operandBits o.format) := by
  cases o with
  | nop | crcInit => exact BitVec.of_length_zero.trans BitVec.of_length_zero.symm
  | crcByte | crcChk | cvtT | cvtRh =>
    injection h
  | crcPair =>
    injection h with h8 h0
    exact (extractLsb'_sixteen v 0).trans (h8 ▸ h0 ▸ (extractLsb'_sixteen w 0).symm)
  | crcVfy | frmId =>
    injection h with h16 h8 h0
    exact (extractLsb'_twentyFour v 0).trans (h16 ▸ h8 ▸ h0 ▸ (extractLsb'_twentyFour w 0).symm)
  | frmMeas =>
    injection h with h40 h32 h24 h16 h8 h0
    exact (extractLsb'_fortyEight v).trans (h40 ▸ h32 ▸ h24 ▸ h16 ▸ h8 ▸ h0 ▸ (extractLsb'_fortyEight w).symm)

/-- Words that agree on a field agree on its bits. -/
theorem getLsbD_eq_of_field_eq {v w : OpWord} {lo k n : Nat} (h : v.extractLsb' lo k = w.extractLsb' lo k)
    (hlo : lo ≤ n) (hhi : n < lo + k) : v.getLsbD n = w.getLsbD n := by
  have hbit := congrArg (BitVec.getLsbD · (n - lo)) h
  simpa [BitVec.getLsbD_extractLsb', Nat.add_sub_cancel' hlo, show n - lo < k by omega] using hbit

/-- A word without reserved bits is 0 between its operands and its opcode. -/
theorem getLsbD_eq_false_of_reserved {w : OpWord} {f : Format} (h : w &&& reservedMask f = 0#64) {n : Nat}
    (hlo : operandBits f ≤ n) (hhi : n < 56) : w.getLsbD n = false := by
  have hbit := congrArg (BitVec.getLsbD · n) h
  simpa [Laws.EncodedFields.reservedMask_bit, hlo, hhi] using hbit

/-- A word is its opcode, its reserved bits and its operand bits: no operation has two words. -/
theorem eq_of_decode_eq {v w : OpWord} {i : Instr} (hv : decode v = .ok i) (hw : decode w = .ok i) : v = w := by
  obtain ⟨hvOpc, hvRsv, hvRead⟩ := decode_eq_ok_iff.mp hv
  obtain ⟨hwOpc, hwRsv, hwRead⟩ := decode_eq_ok_iff.mp hw
  have hOpc : v.extractLsb' 56 8 = w.extractLsb' 56 8 := hvOpc.trans hwOpc.symm
  have hOperands := operandBits_eq_of_readOperands_eq (hvRead.trans hwRead.symm)
  apply BitVec.eq_of_getLsbD_eq
  intro n hn
  by_cases hlow : n < operandBits i.opcode.format
  · exact getLsbD_eq_of_field_eq hOperands n.zero_le (by omega)
  by_cases hmid : n < 56
  · rw [getLsbD_eq_false_of_reserved hvRsv (by omega) hmid, getLsbD_eq_false_of_reserved hwRsv (by omega) hmid]
  · exact getLsbD_eq_of_field_eq hOpc (by omega) (by omega)

/-- Settles O2: the word and the encoding of its operation decode to the same operation, so they are one word. -/
theorem encodeOfDecodeIsTheWord : Obligations.EncodeOfDecodeIsTheWord :=
  fun _ i h => eq_of_decode_eq (decodeOfEncodeIsTheOperation i) h

end Sys2Proof
end

section
/-!
SUPPORT. The opcode table's masks and matches (30_encoding R43), and the three cases of a word by its opcode field and
reserved bits alone (30_encoding R46).
-/

namespace Sys2Proof

open Sys2Proof.Laws.EncodedFields (placeByte_bit reservedMask_bit)

/-- op[63:56], the bits of the opcode (30_encoding R40). -/
def opcodeMask : OpWord := 0xFF00000000000000#64

theorem opcodeMask_bit (n : Nat) (h : n < 64) : opcodeMask.getLsbD n = decide (56 ≤ n) := by
  revert n
  decide

theorem and_opcodeMask (w : OpWord) : w &&& opcodeMask = placeByte (opcodeField w) 56 := by
  apply BitVec.eq_of_getLsbD_eq
  intro n hn
  rw [BitVec.getLsbD_and, opcodeMask_bit n hn, placeByte_bit, opcodeField, BitVec.getLsbD_extractLsb']
  by_cases h : 56 ≤ n
  · simp [h, hn, show n - 56 < 8 by omega]
  · simp [h]

theorem opcodeField_placeByte (b : Byte) : opcodeField (placeByte b 56) = b :=
  byteField_placeByte_same b (by decide)

theorem placeByte_opcode_injective {a b : Byte} (h : placeByte a 56 = placeByte b 56) : a = b := by
  rw [← opcodeField_placeByte a, h, opcodeField_placeByte]

theorem placeByte_opcode_and_reservedMask (b : Byte) (f : Format) : placeByte b 56 &&& reservedMask f = 0#64 := by
  apply BitVec.eq_of_getLsbD_eq
  intro n hn
  rw [BitVec.getLsbD_and, placeByte_bit, reservedMask_bit, BitVec.getLsbD_zero]
  by_cases h : 56 ≤ n
  · simp [show ¬ n < 56 by omega]
  · simp [h]

/-- A row's mask is the opcode and the format's reserved bits, its match the opcode byte over zeros. -/
theorem and_rowMask_eq_iff (w : OpWord) (b : Byte) (f : Format) :
    w &&& (opcodeMask ||| reservedMask f) = placeByte b 56 ↔ opcodeField w = b ∧ w &&& reservedMask f = 0#64 := by
  constructor
  · intro h
    have habsorb : (opcodeMask ||| reservedMask f) &&& opcodeMask = opcodeMask ∧
        (opcodeMask ||| reservedMask f) &&& reservedMask f = reservedMask f := by cases f <;> decide
    obtain ⟨hopcMask, hrsvMask⟩ := habsorb
    have hopc : placeByte (opcodeField w) 56 = placeByte b 56 := by
      rw [← and_opcodeMask, ← hopcMask, ← BitVec.and_assoc, h, and_opcodeMask, opcodeField_placeByte]
    refine ⟨placeByte_opcode_injective hopc, ?_⟩
    rw [← hrsvMask, ← BitVec.and_assoc, h, placeByte_opcode_and_reservedMask]
  · rintro ⟨rfl, hrsv⟩
    rw [BitVec.and_or_distrib_left, and_opcodeMask, hrsv, BitVec.or_zero]

/-- A word decodes to an operation of a row exactly if it has the row's match under the row's mask. -/
theorem decodes_to_row_iff (w : OpWord) (o : Opcode) :
    (∃ i, decode w = .ok i ∧ i.opcode = o) ↔ w &&& (opcodeMask ||| reservedMask o.format) = placeByte o.byte 56 := by
  rw [and_rowMask_eq_iff]
  constructor
  · rintro ⟨i, h, rfl⟩
    obtain ⟨hopc, hrsv, -⟩ := decode_eq_ok_iff.mp h
    exact ⟨hopc, hrsv⟩
  · rintro ⟨hopc, hrsv⟩
    refine ⟨readOperands o w, decode_eq_ok_iff.mpr ?_, readOperands_opcode o w⟩
    rw [readOperands_opcode]
    exact ⟨hopc, hrsv, rfl⟩

/-- Settles O3: each row's mask and match are those of its opcode. -/
theorem opcodeTableRowsSelectTheirOperations : Obligations.OpcodeTableRowsSelectTheirOperations :=
  fun w => ⟨decodes_to_row_iff w .nop, decodes_to_row_iff w .crcInit, decodes_to_row_iff w .crcByte,
    decodes_to_row_iff w .crcChk, decodes_to_row_iff w .crcPair, decodes_to_row_iff w .crcVfy,
    decodes_to_row_iff w .cvtT, decodes_to_row_iff w .cvtRh, decodes_to_row_iff w .frmMeas,
    decodes_to_row_iff w .frmId⟩

/-- Settles O4: ten of the words are encodings, and the decoder's two tests refuse the others. -/
theorem wordsOfTheSpecDecode : Obligations.WordsOfTheSpecDecode :=
  ⟨decodeOfEncodeIsTheOperation .nop, decodeOfEncodeIsTheOperation .crcInit,
    decodeOfEncodeIsTheOperation (.crcByte 0xBE#8), decodeOfEncodeIsTheOperation (.crcChk 0x92#8),
    decodeOfEncodeIsTheOperation (.crcPair 0xBE#8 0xEF#8),
    decodeOfEncodeIsTheOperation (.crcVfy 0x68#8 0x3A#8 0xFD#8),
    decodeOfEncodeIsTheOperation (.cvtT 0x6850#16), decodeOfEncodeIsTheOperation (.cvtRh 0xFFFF#16),
    decodeOfEncodeIsTheOperation (.frmMeas 0x68#8 0x3A#8 0xFD#8 0x80#8 0x00#8 0xA2#8),
    decodeOfEncodeIsTheOperation (.frmId 0x00#8 0x47#8 0x2B#8), by decide, by decide⟩

/-! ### A word by its opcode field and reserved bits -/

/-- The rows of the map have the defined opcodes. -/
theorem mem_definedOpcodes_of_row {row : Byte × Opcode × Format} (h : row ∈ opcodeMap) : row.1 ∈ definedOpcodes :=
  List.mem_map_of_mem (f := Prod.fst) h

theorem row_of_mem_definedOpcodes {b : Byte} (h : b ∈ definedOpcodes) : ∃ o f, (b, o, f) ∈ opcodeMap := by
  obtain ⟨⟨_, o, f⟩, hrow, rfl⟩ := List.mem_map.mp (show b ∈ opcodeMap.map Prod.fst from h)
  exact ⟨o, f, hrow⟩

theorem reservedBitsOf_of_row {b : Byte} {o : Opcode} {f : Format} (h : (b, o, f) ∈ opcodeMap) :
    reservedBitsOf b = reservedMask f := by
  have everyRow : ∀ row ∈ opcodeMap, reservedBitsOf row.1 = reservedMask row.2.2 := by decide
  exact everyRow _ h

theorem decode_of_undefined {w : OpWord} (h : opcodeField w ∉ definedOpcodes) : decode w = .error .illOpc := by
  rcases decode_cases w with ⟨-, hbad⟩ | ⟨o, f, hrow, -⟩
  · exact hbad
  · exact absurd (mem_definedOpcodes_of_row hrow) h

/-- A word with a defined opcode decodes by the reserved bits of that opcode. -/
theorem decode_of_defined {w : OpWord} (h : opcodeField w ∈ definedOpcodes) :
    ∃ i, decode w = if w &&& reservedBitsOf (opcodeField w) = 0#64 then .ok i else .error .illRsv := by
  obtain ⟨o, f, hrow⟩ := row_of_mem_definedOpcodes h
  exact ⟨readOperands o w, reservedBitsOf_of_row hrow ▸ decode_of_row hrow⟩

end Sys2Proof

namespace Sys2Proof.Machine

/-- An illegal word on offer to a ready block sets its sticky bit and is used up. -/
theorem step_of_illegalOffer {s : State} {w : OpWord} {rest : List HostMove} {c : IllegalCause}
    (hf : s.inFlight = none) (hh : s.host = .drive false true w :: rest) (hd : decode w = .error c) :
    step s = .next { s with host := rest, status := s.status ||| flagMask (causeFlag c) } := by
  rw [step_of_offer hf hh, wordEffect_of_error hd]
  rfl

/-- Settles O8: the opcode and the reserved bits decide what the decoder answers, and the step follows it. -/
theorem everyWordRunsOrSetsItsStickyBit : Obligations.EveryWordRunsOrSetsItsStickyBit := by
  intro s w rest hf hh
  refine ⟨fun hopc => step_of_illegalOffer hf hh (decode_of_undefined hopc), fun hopc hrsv => ?_,
    fun hopc hrsv => ?_⟩
  · obtain ⟨_, hd⟩ := decode_of_defined hopc
    exact step_of_illegalOffer hf hh (hd.trans (if_neg hrsv))
  · obtain ⟨i, hd⟩ := decode_of_defined hopc
    have hok : decode w = .ok i := hd.trans (if_pos hrsv)
    exact ⟨i, hok, stepRunsTheDecodedOperation s w i rest hf hh hok⟩

end Sys2Proof.Machine
end

section
/-!
SUPPORT. The words of the assembler as numbers (30_encoding R49): fields placed beside each other with `|||` are their
values added at their places, and the operands in range are those the assembler takes.
-/

namespace Sys2Proof.Machine

/-! ### Fields as numbers -/

/-- A field of `k` bits placed below the lowest bit of a number adds its value at its place. -/
theorem ofNat_or_field {k lo m v : Nat} (hv : v < 2 ^ k) (hm : 2 ^ (lo + k) ∣ m) :
    BitVec.ofNat 64 m ||| (BitVec.ofNat k v).setWidth 64 <<< lo = BitVec.ofNat 64 (m + v * 2 ^ lo) := by
  obtain ⟨q, rfl⟩ := hm
  have hbelow : v * 2 ^ lo < 2 ^ (lo + k) := by
    rw [Nat.pow_add, Nat.mul_comm]
    exact Nat.mul_lt_mul_of_pos_left hv (Nat.two_pow_pos lo)
  have hfield : (BitVec.ofNat k v).setWidth 64 <<< lo = BitVec.ofNat 64 (v * 2 ^ lo) := by
    apply BitVec.eq_of_toNat_eq
    simp [Nat.shiftLeft_eq, Nat.mod_eq_of_lt hv]
  rw [hfield, Nat.two_pow_add_eq_or_of_lt hbelow, BitVec.ofNat_or]

section
variable {m a b c d e f : Nat}

theorem ofNat_or_byte {lo : Nat} (ha : a ≤ 255) (hm : 2 ^ (lo + 8) ∣ m) :
    BitVec.ofNat 64 m ||| placeByte (BitVec.ofNat 8 a) lo = BitVec.ofNat 64 (m + a * 2 ^ lo) :=
  ofNat_or_field (Nat.lt_succ_of_le ha) hm

theorem ofNat_or_lowByte (ha : a ≤ 255) (hm : 2 ^ 8 ∣ m) :
    BitVec.ofNat 64 m ||| placeByte (BitVec.ofNat 8 a) 0 = BitVec.ofNat 64 (m + a) := by
  rw [ofNat_or_byte ha hm, Nat.pow_zero, Nat.mul_one]

theorem ofNat_or_code (ha : a ≤ 65535) (hm : 2 ^ 16 ∣ m) :
    BitVec.ofNat 64 m ||| (BitVec.ofNat 16 a).setWidth 64 = BitVec.ofNat 64 (m + a) := by
  simpa using ofNat_or_field (lo := 0) (Nat.lt_succ_of_le ha) hm

theorem ofNat_or_twoBytes (hab : a ≤ 255 ∧ b ≤ 255) (hm : 2 ^ 16 ∣ m) :
    BitVec.ofNat 64 m ||| (placeByte (BitVec.ofNat 8 a) 8 ||| placeByte (BitVec.ofNat 8 b) 0) =
      BitVec.ofNat 64 (m + a * 2 ^ 8 + b) := by
  obtain ⟨ha, hb⟩ := hab
  rw [← BitVec.or_assoc, ofNat_or_byte ha hm, ofNat_or_lowByte hb (by omega)]

theorem ofNat_or_threeBytes (habc : a ≤ 255 ∧ b ≤ 255 ∧ c ≤ 255) (hm : 2 ^ 24 ∣ m) :
    BitVec.ofNat 64 m ||| (placeByte (BitVec.ofNat 8 a) 16 ||| placeByte (BitVec.ofNat 8 b) 8 |||
        placeByte (BitVec.ofNat 8 c) 0) =
      BitVec.ofNat 64 (m + a * 2 ^ 16 + b * 2 ^ 8 + c) := by
  obtain ⟨ha, hbc⟩ := habc
  rw [BitVec.or_assoc, ← BitVec.or_assoc, ofNat_or_byte ha hm, ofNat_or_twoBytes hbc (by omega)]

theorem ofNat_or_sixBytes (habcdef : a ≤ 255 ∧ b ≤ 255 ∧ c ≤ 255 ∧ d ≤ 255 ∧ e ≤ 255 ∧ f ≤ 255)
    (hm : 2 ^ 48 ∣ m) :
    BitVec.ofNat 64 m ||| (placeByte (BitVec.ofNat 8 a) 40 ||| placeByte (BitVec.ofNat 8 b) 32 |||
        placeByte (BitVec.ofNat 8 c) 24 ||| placeByte (BitVec.ofNat 8 d) 16 ||| placeByte (BitVec.ofNat 8 e) 8 |||
        placeByte (BitVec.ofNat 8 f) 0) =
      BitVec.ofNat 64 (m + a * 2 ^ 40 + b * 2 ^ 32 + c * 2 ^ 24 + d * 2 ^ 16 + e * 2 ^ 8 + f) := by
  obtain ⟨ha, hb, hc, hdef⟩ := habcdef
  simp only [← BitVec.or_assoc]
  rw [ofNat_or_byte ha hm, ofNat_or_byte hb (by omega), ofNat_or_byte hc (by omega), BitVec.or_assoc,
    BitVec.or_assoc, ← BitVec.or_assoc (placeByte _ 16), ofNat_or_threeBytes hdef (by omega)]

end

/-- A word is its opcode byte at bit 56 and its payload. -/
theorem encode_eq_ofNat_or (i : Instr) :
    encode i = BitVec.ofNat 64 (i.opcode.byte.toNat * 2 ^ 56) ||| encodePayload i := by
  have hopc : placeByte i.opcode.byte 56 = BitVec.ofNat 64 (i.opcode.byte.toNat * 2 ^ 56) := by
    cases i.opcode <;> rfl
  rw [encode, hopc]

theorem two_pow_dvd_opcode {k : Nat} (h : k ≤ 56) (o : Opcode) : 2 ^ k ∣ o.byte.toNat * 2 ^ 56 :=
  (pow_dvd_pow 2 h).mul_left _

/-! ### Operands in range -/

section
variable {a b c d e f : Nat}

theorem byteFits_iff : byteFits a = true ↔ a ≤ 255 :=
  decide_eq_true_iff.trans (Nat.lt_succ_iff (n := 255))

theorem codeFits_iff : codeFits a = true ↔ a ≤ 65535 :=
  decide_eq_true_iff.trans (Nat.lt_succ_iff (n := 65535))

theorem byteFits_two_iff : (byteFits a && byteFits b) = true ↔ a ≤ 255 ∧ b ≤ 255 := by
  rw [Bool.and_eq_true, byteFits_iff, byteFits_iff]

theorem byteFits_three_iff : (byteFits a && byteFits b && byteFits c) = true ↔ a ≤ 255 ∧ b ≤ 255 ∧ c ≤ 255 := by
  rw [Bool.and_eq_true, byteFits_two_iff, byteFits_iff, and_assoc]

theorem byteFits_six_iff :
    (byteFits a && byteFits b && byteFits c && byteFits d && byteFits e && byteFits f) = true ↔
      a ≤ 255 ∧ b ≤ 255 ∧ c ≤ 255 ∧ d ≤ 255 ∧ e ≤ 255 ∧ f ≤ 255 := by
  simp only [Bool.and_eq_true, byteFits_iff, and_assoc]

end

/-- A line of one operation assembles to the number of its opcode and payload if its operands are in range, and else to
nothing. -/
theorem assembleLine_eq_ite {line : AsmLine} {i : Instr} {n : Nat} {inRange : Prop} [Decidable inRange]
    (hline : assembleLine line = if line.wellFormed = true then some [encode i] else none)
    (hfits : line.wellFormed = true ↔ inRange)
    (hword : inRange → BitVec.ofNat 64 (i.opcode.byte.toNat * 2 ^ 56) ||| encodePayload i = BitVec.ofNat 64 n) :
    assembleLine line = if inRange then some [BitVec.ofNat 64 n] else none := by
  rw [hline]
  by_cases h : inRange
  · rw [if_pos (hfits.mpr h), if_pos h, encode_eq_ofNat_or, hword h]
  · rw [if_neg (mt hfits.mp h), if_neg h]

/-- Settles O6: line by line, the operands in range and the word as the number of its fields. -/
theorem assemblerEncodesOrRefuses : Obligations.AssemblerEncodesOrRefuses := by
  intro a b c d e f
  refine ⟨rfl, rfl, ?crcByte, ?crcChk, ?crcPair, ?crcVfy, ?cvtT, ?cvtRh, ?frmMeas, ?frmId, ?word64⟩
  case crcByte | crcChk =>
    exact assembleLine_eq_ite rfl byteFits_iff fun h => ofNat_or_lowByte h (two_pow_dvd_opcode (by decide) _)
  case crcPair =>
    exact assembleLine_eq_ite rfl byteFits_two_iff fun h => ofNat_or_twoBytes h (two_pow_dvd_opcode (by decide) _)
  case crcVfy | frmId =>
    exact assembleLine_eq_ite rfl byteFits_three_iff fun h => ofNat_or_threeBytes h (two_pow_dvd_opcode (by decide) _)
  case cvtT | cvtRh =>
    exact assembleLine_eq_ite rfl codeFits_iff fun h => ofNat_or_code h (two_pow_dvd_opcode (by decide) _)
  case frmMeas =>
    exact assembleLine_eq_ite rfl byteFits_six_iff fun h => ofNat_or_sixBytes h (two_pow_dvd_opcode (by decide) _)
  case word64 => simp [assembleLine, AsmLine.wellFormed, wordFits]

end Sys2Proof.Machine
end

section
/-!
SUPPORT. Sequences of operations and their words (20_memory R35), and the pseudo-instructions (30_encoding R50): a
sequence of encoded words runs as its operations, and a CRC stream leaves the CRC of its bytes.
-/

namespace Sys2Proof.Machine

/-! ### Sequences -/

theorem execAll_nil (s : State) : execAll [] s = .next s := rfl

theorem execAll_cons (i : Instr) (is : List Instr) (s : State) : execAll (i :: is) s = execAll is (issue i s) := by
  rw [execAll, exec_eq_next_issue]

/-- Words of operations run as the operations, by decoding each. -/
theorem execWords_map_encode (is : List Instr) (s : State) : execWords (is.map encode) s = execAll is s := by
  induction is generalizing s with
  | nil => rfl
  | cons i is ih =>
    rw [List.map_cons, execWords_cons, wordEffect_of_ok (decodeOfEncodeIsTheOperation i), ih, execAll_cons]

/-- A CRC.BYTE for each byte folds the bytes into CRC and leaves the rest of the state (40_crc R60). -/
theorem execAll_crcBytes_append (data : List Byte) (is : List Instr) (s : State) :
    execAll (data.map .crcByte ++ is) s = execAll is (writeCrc (data.foldl crc8Update s.crc) s) := by
  induction data generalizing s with
  | nil => rfl
  | cons b data ih => exact (execAll_cons ..).trans (ih (writeCrc (crc8Update s.crc b) s))

/-- A CRC stream leaves the CRC of its bytes to what follows it (40_crc R65). -/
theorem execAll_crcStream_append (data : List Byte) (is : List Instr) (s : State) :
    execAll (.crcInit :: data.map .crcByte ++ is) s = execAll is (writeCrc (crc8 data) s) :=
  (execAll_cons ..).trans (execAll_crcBytes_append data is (writeCrc crcInit s))

theorem execAll_crcStream (data : List Byte) (s : State) :
    execAll (.crcInit :: data.map .crcByte) s = .next (writeCrc (crc8 data) s) := by
  simpa only [List.append_nil, execAll_nil] using execAll_crcStream_append data [] s

/-- A CRC stream and CRC.CHK leave in CRC_OK whether the stream's CRC is the operand (40_crc R61). -/
theorem execAll_crcStream_crcChk (data : List Byte) (c : Byte) (s : State) :
    execAll (.crcInit :: data.map .crcByte ++ [.crcChk c]) s =
      .next (setFlag .crcOk (verify data c) (writeCrc (crc8 data) s)) :=
  execAll_crcStream_append data [.crcChk c] s

/-- Writing a flag is a write of its one bit (10_state R17). -/
theorem statusWrites_putFlag (f : Flag) (b : Bool) (w : StatusWord) : StatusWrites w (putFlag f b w) [(f.bit, b)] := by
  intro n _
  rw [putFlag_bit, List.lookup_cons, List.lookup_nil]
  by_cases h : n = f.bit
  · simp [h]
  · simp [h, beq_false_of_ne h]

/-! ### The assembler on operands that are values of their fields -/

theorem byteFits_toNat (b : Byte) : byteFits b.toNat = true := decide_eq_true b.isLt

theorem codeFits_toNat (code : Code) : codeFits code.toNat = true := decide_eq_true code.isLt

theorem all_byteFits_toNat (data : List Byte) : (data.map BitVec.toNat).all byteFits = true := by
  simp [byteFits_toNat]

theorem map_crcByte_toNat (data : List Byte) :
    (data.map BitVec.toNat).map (fun b => Instr.crcByte (BitVec.ofNat 8 b)) = data.map .crcByte := by
  simp

theorem assembleLine_crcSeq (data : List Byte) :
    assembleLine (.crcSeq (data.map BitVec.toNat)) = some ((Instr.crcInit :: data.map .crcByte).map encode) := by
  simp only [assembleLine, AsmLine.wellFormed, all_byteFits_toNat, expandLine, map_crcByte_toNat, if_true]

theorem assembleLine_crcVerify (c : Byte) (data : List Byte) :
    assembleLine (.crcVerify c.toNat (data.map BitVec.toNat)) =
      some ((Instr.crcInit :: data.map Instr.crcByte ++ [Instr.crcChk c]).map encode) := by
  simp only [assembleLine, AsmLine.wellFormed, byteFits_toNat, all_byteFits_toNat, expandLine, map_crcByte_toNat,
    BitVec.ofNat_toNat, BitVec.setWidth_eq, Bool.and_self, if_true]

theorem assembleLine_cvtBoth (a b : Code) :
    assembleLine (.cvtBoth a.toNat b.toNat) = some ([Instr.cvtT a, .cvtRh b].map encode) := by
  simp only [assembleLine, AsmLine.wellFormed, codeFits_toNat, expandLine, BitVec.ofNat_toNat, BitVec.setWidth_eq,
    Bool.and_self, if_true]

/-- Settles O49: each line assembles to its expansion, whose words run as its operations; on two bytes
their effects are those of CRC.PAIR and CRC.VFY. -/
theorem pseudoInstructionsDoWhatTheySay : Obligations.PseudoInstructionsDoWhatTheySay := by
  refine ⟨fun data s => ⟨assembleLine_crcSeq data, ?_⟩, fun c data s => ⟨assembleLine_crcVerify c data, ?_⟩,
    fun a b s => ⟨assembleLine_cvtBoth a b, execWords_map_encode _ s⟩, fun d0 d1 c s => ⟨?_, ?_⟩⟩
  · exact (execWords_map_encode _ s).trans (execAll_crcStream data s)
  · exact ⟨_, (execWords_map_encode _ s).trans (execAll_crcStream_crcChk data c s),
      statusWrites_putFlag .crcOk (verify data c) s.status, rfl⟩
  · exact (execAll_crcStream [d0, d1] s).trans (exec_crcPair s d0 d1).symm
  · exact (execAll_crcStream_crcChk [d0, d1] c s).trans (exec_crcVfy s d0 d1 c).symm

end Sys2Proof.Machine
end

section
/-!
SUPPORT. The CRC as linear algebra over GF(2) (40_crc R55 to R57, R64, R66): a shift step is linear with only 0 in its
kernel, so the update is linear and a bijection in each argument; what that says of pairs, of valid triples and of the
zero residue.
-/

namespace Sys2Proof.Machine

/-! ### The shift step -/

/-- A register one bit wider whose shifted value is truncated again holds what the register holds. -/
theorem setWidth_shiftLeft_one_setWidth (r : Byte) : (r.setWidth 9 <<< 1).setWidth 8 = r <<< 1 := by
  rw [BitVec.setWidth_shiftLeft_of_le (by decide), BitVec.setWidth_setWidth_of_le _ (by decide), BitVec.setWidth_eq]

/-- Settles O26: the polynomial has no bit in 7:6, and truncation commutes with the shift and with the XOR. -/
theorem crcStepShiftsAndReduces : Obligations.CrcStepShiftsAndReduces := by
  refine ⟨fun _ => rfl, fun r => ⟨?_, ?_⟩, by decide, by decide, by decide, by decide⟩
  · have hpoly : (0x31#8).extractLsb' 6 2 = 0#2 := by decide
    rw [BitVec.extractLsb'_xor, hpoly, BitVec.xor_zero]
  · rw [BitVec.setWidth_xor, setWidth_shiftLeft_one_setWidth]
    rfl

theorem crc8Step_zero : crc8Step 0#8 = 0#8 := by decide

/-- What a shift step adds to the shifted register: the polynomial, if a 1 was shifted out (40_crc R55). -/
def shiftedOut (topBit : Bool) : Byte := if topBit then crcPoly else 0#8

theorem shiftedOut_xor (a b : Bool) : shiftedOut (a ^^ b) = shiftedOut a ^^^ shiftedOut b := by
  cases a <;> cases b <;> decide

theorem crc8Step_eq_xor_shiftedOut (r : Byte) : crc8Step r = r <<< 1 ^^^ shiftedOut (r.getLsbD 7) := by
  rw [crc8Step, shiftedOut]
  split
  · rfl
  · rw [BitVec.xor_zero]

/-- Both the shift and what is added to it are linear. -/
theorem crc8Step_linear (r r' : Byte) : crc8Step (r ^^^ r') = crc8Step r ^^^ crc8Step r' := by
  simp only [crc8Step_eq_xor_shiftedOut, BitVec.shiftLeft_xor_distrib, BitVec.getLsbD_xor, shiftedOut_xor]
  ac_rfl

/-- Doubling, or doubling and adding the odd number 0x131, gives 0 from 0 alone. -/
theorem eq_zero_of_crc8Step_eq_zero {r : Byte} (h : crc8Step r = 0#8) : r = 0#8 := by
  have hstep := crcStepMultipliesByXModuloThePolynomial r
  rw [h, BitVec.toNat_zero] at hstep
  apply BitVec.eq_of_toNat_eq
  rw [BitVec.toNat_zero]
  split at hstep
  · omega
  · have hodd : 2 * r.toNat = 0x131 := Nat.xor_eq_zero_iff.mp hstep.symm
    omega

theorem crc8Step_injective : Function.Injective crc8Step := by
  intro r r' h
  apply BitVec.xor_eq_zero_iff.mp
  apply eq_zero_of_crc8Step_eq_zero
  rw [crc8Step_linear, h, BitVec.xor_self]

/-! ### Several steps -/

theorem crc8Steps_eq_iterate (n : Nat) (r : Byte) : crc8Steps n r = crc8Step^[n] r := by
  induction n generalizing r with
  | zero => rfl
  | succ n ih => exact ih (crc8Step r)

theorem iterate_crc8Step_linear (n : Nat) (r r' : Byte) :
    crc8Step^[n] (r ^^^ r') = crc8Step^[n] r ^^^ crc8Step^[n] r' := by
  induction n generalizing r r' with
  | zero => rfl
  | succ n ih => simp only [Function.iterate_succ_apply, crc8Step_linear, ih]

/-! ### The update -/

/-- The update of R56, with the model's count of steps read as iteration. -/
theorem crc8Update_eq_iterate (r b : Byte) : crc8Update r b = crc8Step^[8] (r ^^^ b) := crc8Steps_eq_iterate 8 _

/-- The update sees the register and the byte only in their XOR. -/
theorem crc8Update_comm (r b : Byte) : crc8Update r b = crc8Update b r := by
  rw [crc8Update, BitVec.xor_comm, crc8Update]

theorem crc8Update_right_inj {r b b' : Byte} : crc8Update r b = crc8Update r b' ↔ b = b' := by
  rw [crc8Update_eq_iterate, crc8Update_eq_iterate, (crc8Step_injective.iterate 8).eq_iff, BitVec.xor_right_inj]

theorem crc8Update_left_inj {r r' b : Byte} : crc8Update r b = crc8Update r' b ↔ r = r' := by
  rw [crc8Update_comm r, crc8Update_comm r', crc8Update_right_inj]

/-- A byte equal to the register clears it. -/
theorem crc8Update_self (r : Byte) : crc8Update r r = 0#8 := by
  rw [crc8Update_eq_iterate, BitVec.xor_self, Function.iterate_fixed crc8Step_zero]

/-- Settles O30. -/
theorem crcUpdateIsLinear : Obligations.CrcUpdateIsLinear := by
  intro r r' b b'
  have hregroup : (r ^^^ r') ^^^ (b ^^^ b') = (r ^^^ b) ^^^ (r' ^^^ b') := by ac_rfl
  simp only [crc8Update_eq_iterate]
  rw [hregroup, iterate_crc8Step_linear]

/-- Settles O31: an injective map of a finite type to itself is a bijection. -/
theorem crcUpdateIsABijectionInEachArgument : Obligations.CrcUpdateIsABijectionInEachArgument :=
  ⟨fun _ => Finite.injective_iff_bijective.mp fun _ _ h => crc8Update_right_inj.mp h,
    fun _ => Finite.injective_iff_bijective.mp fun _ _ h => crc8Update_left_inj.mp h⟩

/-! ### Sequences of bytes -/

/-- The CRC of R57 takes one more byte by one more update. -/
theorem crc8_concat (data : List Byte) (b : Byte) : crc8 (data ++ [b]) = crc8Update (crc8 data) b :=
  List.foldl_concat ..

/-- Settles O28. -/
theorem crcOfASequenceFoldsItsBytes : Obligations.CrcOfASequenceFoldsItsBytes :=
  ⟨rfl, crc8_concat, crc8Update_eq_iterate, by decide +kernel, by decide +kernel⟩

section
variable {d d' e : Byte}

theorem crc8_pair_right_inj : crc8 [e, d] = crc8 [e, d'] ↔ d = d' := crc8Update_right_inj

theorem crc8_pair_left_inj : crc8 [d, e] = crc8 [d', e] ↔ d = d' := crc8Update_left_inj.trans crc8Update_right_inj

end

theorem verify_eq_true_iff {data : List Byte} {c : Byte} : verify data c = true ↔ crc8 data = c := beq_iff_eq

/-- The one changed position of a triple. -/
theorem bytesChanged_eq_one_cases {h g : HalfFrame} (hone : bytesChanged h g = 1) :
    (h.msb ≠ g.msb ∧ h.lsb = g.lsb ∧ h.crc = g.crc) ∨ (h.msb = g.msb ∧ h.lsb ≠ g.lsb ∧ h.crc = g.crc) ∨
      (h.msb = g.msb ∧ h.lsb = g.lsb ∧ h.crc ≠ g.crc) := by
  rw [bytesChanged] at hone
  by_cases hm : h.msb = g.msb
  · by_cases hl : h.lsb = g.lsb
    · refine .inr (.inr ⟨hm, hl, fun hc => ?_⟩)
      rw [if_pos hm, if_pos hl, if_pos hc] at hone
      omega
    · refine .inr (.inl ⟨hm, hl, by_contra fun hc => ?_⟩)
      rw [if_neg hl, if_neg hc] at hone
      omega
  · refine .inl ⟨hm, by_contra fun hl => ?_, by_contra fun hc => ?_⟩
    · rw [if_neg hm, if_neg hl] at hone
      omega
    · rw [if_neg hm, if_neg hc] at hone
      omega

/-- Settles O32: a changed byte of the pair changes the checksum, a changed checksum is not the pair's. -/
theorem oneChangedByteOfATripleIsDetected : Obligations.OneChangedByteOfATripleIsDetected := by
  refine ⟨fun d0 d1 e => ⟨mt crc8_pair_left_inj.mp, mt crc8_pair_right_inj.mp⟩, fun h g hvalid hone => ?_,
    by decide +kernel, by decide +kernel⟩
  rw [verify_eq_true_iff] at hvalid
  rw [Bool.eq_false_iff, Ne, verify_eq_true_iff]
  intro hg
  rcases bytesChanged_eq_one_cases hone with ⟨hne, hl, hc⟩ | ⟨hm, hne, hc⟩ | ⟨hm, hl, hne⟩
  · rw [hl, hc, ← hg] at hvalid
    exact hne (crc8_pair_left_inj.mp hvalid)
  · rw [hm, hc, ← hg] at hvalid
    exact hne (crc8_pair_right_inj.mp hvalid)
  · rw [hm, hl, hg] at hvalid
    exact hne hvalid.symm

/-- Each first byte has one second byte that gives the checksum. -/
theorem bijective_firstByte_of_pairs_with_crc (c : Byte) :
    Function.Bijective fun p : {p : Byte × Byte // crc8 [p.1, p.2] = c} => p.1.1 := by
  constructor
  · rintro ⟨⟨d0, d1⟩, hp⟩ ⟨⟨e0, e1⟩, hq⟩ (rfl : d0 = e0)
    have hsecond : d1 = e1 := crc8_pair_right_inj.mp (hp.trans hq.symm)
    rw [Subtype.mk.injEq, hsecond]
  · intro d0
    obtain ⟨hbyte, -⟩ := crcUpdateIsABijectionInEachArgument
    obtain ⟨d1, hd1⟩ := (hbyte (crc8Update crcInit d0)).surjective c
    exact ⟨⟨(d0, d1), hd1⟩, rfl⟩

/-- Settles O33: the pairs with the checksum are as many as their first bytes, which are all the bytes. -/
theorem eachChecksumBelongsToExactly256Pairs : Obligations.EachChecksumBelongsToExactly256Pairs := by
  intro c
  calc (Finset.univ.filter fun p : Byte × Byte => crc8 [p.1, p.2] = c).card
      = Fintype.card {p : Byte × Byte // crc8 [p.1, p.2] = c} := (Fintype.card_subtype _).symm
    _ = Fintype.card Byte := Fintype.card_of_bijective (bijective_firstByte_of_pairs_with_crc c)
    _ = 256 := FinEnum.card_eq_fintypeCard.symm.trans (FinEnum.card_bitVec 8)

/-- Settles O34: the third byte meets the pair's checksum in the register, which only an equal byte clears. -/
theorem validTriplesAndOnlyTheyLeaveZero : Obligations.ValidTriplesAndOnlyTheyLeaveZero := by
  intro d0 d1
  have hzero : crc8 [d0, d1, crc8 [d0, d1]] = 0x00#8 := (crc8_concat [d0, d1] _).trans (crc8Update_self _)
  refine ⟨verify_eq_true_iff.mpr rfl, hzero, fun c hne hc => hne ?_⟩
  exact crc8Update_right_inj.mp (hc.trans hzero.symm)

end Sys2Proof.Machine
end

section
/-!
SUPPORT. Words as the operation rules write them (30_encoding R41, R44, R46): constant high bits followed by operand
bytes are an encoded word, and a 1 between operands and opcode makes the word ILL_RSV.
-/

namespace Sys2Proof

open Sys2Proof.Laws.EncodedFields (operandBits)

/-! ### Constant high bits and operand bytes -/

/-- Appending moves the high part up and puts the low part below it, at any width. -/
theorem setWidth_append_eq_or {n k : Nat} (hi : BitVec n) (lo : BitVec k) (m : Nat) :
    (hi ++ lo).setWidth m = hi.setWidth m <<< k ||| lo.setWidth m := by
  apply BitVec.eq_of_getLsbD_eq
  intro j hj
  simp only [BitVec.getLsbD_setWidth, BitVec.getLsbD_append, BitVec.getLsbD_or, BitVec.getLsbD_shiftLeft, hj,
    decide_true, Bool.true_and]
  by_cases hlow : j < k
  · simp [hlow]
  · simp [hlow, show j - k < m by omega, BitVec.getLsbD_of_ge lo j (by omega)]

theorem append_byte_eq_or (hi : BitVec 56) (b : Byte) :
    hi ++ b = hi.setWidth 64 <<< 8 ||| placeByte b 0 := by
  rw [← BitVec.setWidth_eq (x := hi ++ b), setWidth_append_eq_or, placeByte, BitVec.shiftLeft_zero]

theorem append_twoBytes_eq_or (hi : BitVec 48) (b0 b1 : Byte) :
    hi ++ b0 ++ b1 = hi.setWidth 64 <<< 16 ||| (placeByte b0 8 ||| placeByte b1 0) := by
  rw [← BitVec.setWidth_eq (x := hi ++ b0 ++ b1), setWidth_append_eq_or, setWidth_append_eq_or,
    BitVec.shiftLeft_or_distrib, ← BitVec.shiftLeft_add, BitVec.or_assoc, placeByte, placeByte, BitVec.shiftLeft_zero]

theorem append_threeBytes_eq_or (hi : BitVec 40) (b0 b1 b2 : Byte) :
    hi ++ b0 ++ b1 ++ b2 = hi.setWidth 64 <<< 24 ||| (placeByte b0 16 ||| placeByte b1 8 ||| placeByte b2 0) := by
  rw [← BitVec.setWidth_eq (x := hi ++ b0 ++ b1 ++ b2)]
  simp only [setWidth_append_eq_or, BitVec.shiftLeft_or_distrib, ← BitVec.shiftLeft_add, BitVec.or_assoc, placeByte,
    BitVec.shiftLeft_zero]

/-- A word that is an opcode byte over the payload of an operation with that opcode is the operation's word. -/
theorem decode_of_eq_or {w hi : OpWord} {i : Instr} (o : Opcode) (hw : w = hi ||| encodePayload i)
    (hi_eq : hi = placeByte o.byte 56) (ho : i.opcode = o) : decode w = .ok i := by
  have hencode : w = encode i := by rw [hw, hi_eq, ← ho, encode]
  rw [hencode, decodeOfEncodeIsTheOperation]

/-! ### Reserved bits -/

theorem reservedField_eq_zero {w : OpWord} {f : Format} (h : w &&& reservedMask f = 0#64) :
    w.extractLsb' (operandBits f) (56 - operandBits f) = 0#(56 - operandBits f) := by
  apply BitVec.eq_of_getLsbD_eq
  intro n hn
  rw [BitVec.getLsbD_extractLsb', getLsbD_eq_false_of_reserved h (by omega) (by omega), Bool.and_false,
    BitVec.getLsbD_zero]

/-- A 1 between the operands and the opcode of a defined operation is ILL_RSV. -/
theorem decode_of_reservedField {w : OpWord} (o : Opcode) (hopc : w.extractLsb' 56 8 = o.byte)
    (hrsv : w.extractLsb' (operandBits o.format) (56 - operandBits o.format) ≠ 0#(56 - operandBits o.format)) :
    decode w = .error .illRsv := by
  have hrow : (opcodeField w, o, o.format) ∈ opcodeMap := by
    rw [opcodeField, hopc]
    exact row_mem_opcodeMap o
  rw [decode_of_row hrow, if_neg (mt reservedField_eq_zero hrsv)]

end Sys2Proof

namespace Sys2Proof.Machine

open Sys2Proof.Laws.EncodedFields (operandBits)

/-- Such a word sets bit 11 of STATUS and does nothing else (60 R88). -/
theorem execWord_of_reservedField (o : Opcode) (s : State) (w : OpWord) (hopc : w.extractLsb' 56 8 = o.byte)
    (hrsv : w.extractLsb' (operandBits o.format) (56 - operandBits o.format) ≠ 0#(56 - operandBits o.format)) :
    execWord w s = .next { s with status := s.status ||| 0x0800#16 } :=
  execWord_of_error (decode_of_reservedField o hopc hrsv) s

end Sys2Proof.Machine
end

section
/-!
SUPPORT. The five CRC operations and the CRC stream (40_crc R59 to R63, R65).
-/

namespace Sys2Proof.Machine

/-- Settles O36. -/
theorem crcInitSetsCrcToFF : Obligations.CrcInitSetsCrcToFF := by
  refine ⟨decodeOfEncodeIsTheOperation .crcInit, fun s => ⟨exec_crcInit s, fun h => ?_,
    execWord_of_reservedField .crcInit s⟩⟩
  have hsame : writeCrc crcInit s = s := by
    rw [crcInit, ← h]
    rfl
  rw [exec_crcInit, hsame]

/-- Settles O37: the update is injective in the byte. -/
theorem crcByteFoldsOneByte : Obligations.CrcByteFoldsOneByte := by
  refine ⟨fun b => decode_of_eq_or .crcByte (append_byte_eq_or _ b) (by decide) rfl,
    fun s b => ⟨?_, fun c h => ?_⟩, execWord_of_reservedField .crcByte,
    by decide +kernel, by decide +kernel, by decide +kernel, by decide +kernel⟩
  · rw [exec_crcByte, crc8Update_eq_iterate]
    rfl
  · rw [← crc8Update_eq_iterate, ← crc8Update_eq_iterate] at h
    exact crc8Update_right_inj.mp h

/-- Settles O38: after a stream CRC.CHK compares the stream's CRC, which is 0xFF for no bytes and 0x00 for a valid
triple. -/
theorem crcChkComparesTheRunningCrc : Obligations.CrcChkComparesTheRunningCrc := by
  refine ⟨fun c => decode_of_eq_or .crcChk (append_byte_eq_or _ c) (by decide) rfl,
    fun s c => ⟨_, exec_crcChk s c, statusWrites_putFlag .crcOk (s.crc == c) s.status, rfl⟩,
    execWord_of_reservedField .crcChk, fun s c => ⟨_, execAll_crcStream_crcChk [] c s, ?_⟩, fun s d0 d1 => ?_⟩
  · have hverdict : verify [] c = decide (c = 0xFF#8) := decide_eq_decide.mpr eq_comm
    exact (getFlag_putFlag_same .crcOk _ _).trans hverdict
  · obtain ⟨-, hzero, -⟩ := validTriplesAndOnlyTheyLeaveZero d0 d1
    have hverdict : verify [d0, d1, crc8 [d0, d1]] 0x00#8 = true := verify_eq_true_iff.mpr hzero
    exact ⟨_, execAll_crcStream_crcChk [d0, d1, crc8 [d0, d1]] 0x00#8 s, hzero,
      (getFlag_putFlag_same .crcOk _ _).trans hverdict⟩

/-- Settles O39. -/
theorem crcPairComputesThePairsChecksum : Obligations.CrcPairComputesThePairsChecksum :=
  ⟨fun d0 d1 => decode_of_eq_or .crcPair (append_twoBytes_eq_or _ d0 d1) (by decide) rfl, exec_crcPair,
    execWord_of_reservedField .crcPair,
    by decide +kernel, by decide +kernel, by decide +kernel, by decide +kernel, by decide +kernel⟩

/-- Settles O40: the verdict compares the checksum computed, so the one third byte it accepts is that checksum. -/
theorem crcVfyVerifiesThePair : Obligations.CrcVfyVerifiesThePair := by
  refine ⟨fun d0 d1 c => decode_of_eq_or .crcVfy (append_threeBytes_eq_or _ d0 d1 c) (by decide) rfl,
    fun s d0 d1 c => ⟨_, exec_crcVfy s d0 d1 c, rfl, statusWrites_putFlag .crcOk (verify [d0, d1] c) s.status, rfl⟩,
    execWord_of_reservedField .crcVfy, fun d0 d1 => ?_, by decide +kernel⟩
  exact ⟨crc8 [d0, d1], decide_eq_true rfl, fun c h => (of_decide_eq_true h).symm⟩

/-- Settles O48. -/
theorem streamedBytesLeaveTheirCrc : Obligations.StreamedBytesLeaveTheirCrc :=
  ⟨execAll_crcStream, rfl, by decide +kernel, by decide +kernel⟩

end Sys2Proof.Machine
end

section
/-!
SUPPORT. The two conversions as floors (41_convert R67 to R71, R74): each is a quotient of integers rounded down, and
from that come its ideal formula, its monotonicity, its steps and the values it skips.
-/

namespace Sys2Proof.Machine

/-- The shift of R67 is a division rounded down. -/
theorem convT_eq_ediv (c : Code) : convT c = (21875 * c.toNat : Int) / 8192 - 45000 := by
  rw [convT, Nat.shiftRight_eq_div_pow, Int.natCast_ediv, Nat.cast_mul]
  rfl

/-- The shift of R69 is a division rounded down. -/
theorem convRh_eq_ediv (c : Code) : convRh c = (12500 * c.toNat : Int) / 8192 := by
  rw [convRh, Nat.shiftRight_eq_div_pow, Int.natCast_ediv, Nat.cast_mul]
  rfl

/-! ### The ideal formulas -/

/-- 175000/65536 is 21875/8192 in lowest terms, and the integer 45000 comes out of the floor (R71). -/
theorem convT_eq_floor (c : Code) : convT c = ⌊1000 * (175 * (c.toNat : ℚ) / 65536 - 45)⌋ := by
  have hideal : 1000 * (175 * (c.toNat : ℚ) / 65536 - 45) = ((21875 * c.toNat : ℤ) : ℚ) / (8192 : ℕ) - (45000 : ℕ) := by
    push_cast
    ring
  rw [hideal, Int.floor_sub_natCast, Rat.floor_intCast_div_natCast, convT_eq_ediv]
  rfl

/-- 100000/65536 is 12500/8192 in lowest terms (R71). -/
theorem convRh_eq_floor (c : Code) : convRh c = ⌊1000 * (100 * (c.toNat : ℚ) / 65536)⌋ := by
  have hideal : 1000 * (100 * (c.toNat : ℚ) / 65536) = ((12500 * c.toNat : ℤ) : ℚ) / (8192 : ℕ) := by
    push_cast
    ring
  rw [hideal, Rat.floor_intCast_div_natCast, convRh_eq_ediv]
  rfl

/-- Settles O46: what a floor leaves of its argument is the fractional part. -/
theorem conversionsFloorTheIdealFormulas : Obligations.ConversionsFloorTheIdealFormulas := by
  intro code
  rw [convT_eq_floor, convRh_eq_floor]
  exact ⟨⟨Int.fract_nonneg _, Int.fract_lt_one _⟩, ⟨Int.fract_nonneg _, Int.fract_lt_one _⟩⟩

/-! ### The numeric contract -/

/-- Settles O45: each bound is a fact about the largest code. -/
theorem conversionsFitAndAreExact : Obligations.ConversionsFitAndAreExact := by
  refine ⟨fun code => ?_, by decide, by decide, by decide, by decide, by decide, by decide, by decide⟩
  have hcode : code.toNat ≤ 65535 := Nat.le_of_lt_succ code.isLt
  obtain ⟨hTlo, hThi⟩ := convT_range code
  obtain ⟨hRhlo, hRhhi⟩ := convRh_range code
  have hT : 21875 * code.toNat ≤ 1433578125 := Nat.mul_le_mul_left 21875 hcode
  have hRh : 12500 * code.toNat ≤ 819187500 := Nat.mul_le_mul_left 12500 hcode
  have hshift : (21875 * code.toNat) >>> 13 ≤ 174997 := by
    rw [Nat.shiftRight_eq_div_pow]
    exact Nat.div_le_div_right hT
  exact ⟨hT, hRh, hshift, hTlo, hThi, hRhlo, hRhhi, toInt_s32_convT code, toInt_s32_convRh code⟩

/-! ### Monotonicity and steps -/

section
variable {a b : Code}

theorem convT_mono (h : a.toNat ≤ b.toNat) : convT a ≤ convT b := by
  rw [convT_eq_ediv, convT_eq_ediv]
  omega

theorem convRh_mono (h : a.toNat ≤ b.toNat) : convRh a ≤ convRh b := by
  rw [convRh_eq_ediv, convRh_eq_ediv]
  omega

/-- The floor rises by 21875/8192 rounded down or up. -/
theorem convT_step (h : b.toNat = a.toNat + 1) : convT b - convT a = 2 ∨ convT b - convT a = 3 := by
  rw [convT_eq_ediv, convT_eq_ediv, h]
  omega

/-- The floor rises by 12500/8192 rounded down or up. -/
theorem convRh_step (h : b.toNat = a.toNat + 1) : convRh b - convRh a = 1 ∨ convRh b - convRh a = 2 := by
  rw [convRh_eq_ediv, convRh_eq_ediv, h]
  omega

end

theorem convT_16852 : convT 16852#16 = -1 := by decide

theorem convT_16853 : convT 16853#16 = 2 := by decide

/-- Two neighbouring codes go from -1 to 2, so no code gives 0 (R74). -/
theorem convT_ne_zero (c : Code) : convT c ≠ 0 := by
  rcases Nat.lt_or_ge 16852 c.toNat with hgt | hle
  · have hpos : 2 ≤ convT c := convT_16853 ▸ convT_mono (a := 16853#16) hgt
    omega
  · have hneg : convT c ≤ -1 := convT_16852 ▸ convT_mono (b := 16852#16) hle
    omega

/-- The largest code already falls short of 100 % (R74). -/
theorem convRh_ne_100000 (c : Code) : convRh c ≠ 100000 := by
  obtain ⟨-, hle⟩ := convRh_range c
  omega

/-- Settles O47. -/
theorem conversionsRiseInSmallSteps : Obligations.ConversionsRiseInSmallSteps :=
  ⟨fun _ _ h => ⟨convT_mono h, convRh_mono h⟩, fun _ _ h => ⟨convT_step h, convRh_step h⟩,
    fun a => ⟨convT_ne_zero a, convRh_ne_100000 a, (convRh_range a).2⟩,
    convT_16852, convT_16853, by decide, by decide, by decide⟩

end Sys2Proof.Machine
end

section
/-!
SUPPORT. The two conversion operations (41_convert R72, R73).
-/

namespace Sys2Proof.Machine

theorem append_code_eq_or (hi : BitVec 48) (code : Code) :
    hi ++ code = hi.setWidth 64 <<< 16 ||| code.setWidth 64 := by
  rw [← BitVec.setWidth_eq (x := hi ++ code), setWidth_append_eq_or]

theorem s32_convT_ne_zero (c : Code) : s32 (convT c) ≠ 0#32 := by
  intro h
  have hzero : (s32 (convT c)).toInt = 0 := congrArg BitVec.toInt h
  rw [toInt_s32_convT] at hzero
  exact convT_ne_zero c hzero

theorem s32_convRh_ne_100000 (c : Code) : s32 (convRh c) ≠ 100000#32 := by
  intro h
  have hmax : (s32 (convRh c)).toInt = 100000 := congrArg BitVec.toInt h
  rw [toInt_s32_convRh] at hmax
  exact convRh_ne_100000 c hmax

/-- Settles O41. -/
theorem cvtTWritesMilliDegrees : Obligations.CvtTWritesMilliDegrees := by
  refine ⟨fun code => decode_of_eq_or .cvtT (append_code_eq_or _ code) (by decide) rfl,
    fun s code => ⟨_, exec_cvtT s code, ?_, s32_convT_ne_zero code, statusWrites_putFlag .tValid true s.status, rfl⟩,
    execWord_of_reservedField .cvtT, by decide, by decide, by decide, by decide, by decide⟩
  exact (toInt_s32_convT code).trans (convT_eq_ediv code)

/-- Settles O42. -/
theorem cvtRhWritesMilliPercent : Obligations.CvtRhWritesMilliPercent := by
  refine ⟨fun code => decode_of_eq_or .cvtRh (append_code_eq_or _ code) (by decide) rfl,
    fun s code => ⟨_, exec_cvtRh s code, ?_, s32_convRh_ne_100000 code,
      statusWrites_putFlag .rhValid true s.status, rfl⟩,
    execWord_of_reservedField .cvtRh, by decide, by decide, by decide, by decide, by decide⟩
  exact (toInt_s32_convRh code).trans (convRh_eq_ediv code)

end Sys2Proof.Machine
end

section
/-!
SUPPORT. STATUS through a sequence of flag writes (10_state R17), and the words of the two frame operations.
-/

namespace Sys2Proof.Machine

/-- A flag not among the bits written so far is one more bit written. -/
theorem statusWrites_append_putFlag {old new : StatusWord} {writes : List (Nat × Bool)}
    (h : StatusWrites old new writes) (f : Flag) (b : Bool) (hfresh : writes.lookup f.bit = none) :
    StatusWrites old (putFlag f b new) (writes ++ [(f.bit, b)]) := by
  intro n hn
  rw [List.lookup_append, putFlag_bit]
  by_cases e : n = f.bit
  · rw [if_pos e, e, hfresh, List.lookup_cons_self]
    rfl
  · rw [if_neg e, h n hn, List.lookup_cons, beq_false_of_ne e, List.lookup_nil, Option.or_none]

theorem statusWrites_setFrameVerdict (tOk rhOk : Bool) (s : State) :
    StatusWrites s.status (setFrameVerdict tOk rhOk s).status
      [(1, tOk), (2, rhOk), (3, tOk && rhOk), (4, !(tOk && rhOk))] := by
  have h1 := statusWrites_putFlag .tOk tOk s.status
  have h2 := statusWrites_append_putFlag h1 .rhOk rhOk rfl
  have h3 := statusWrites_append_putFlag h2 .frameOk (tOk && rhOk) rfl
  exact statusWrites_append_putFlag h3 .badData (!(tOk && rhOk)) rfl

theorem statusWrites_setIdVerdict (idCrcOk sig : Bool) (s : State) :
    StatusWrites s.status (setIdVerdict idCrcOk sig s).status [(5, idCrcOk), (6, sig), (7, idCrcOk && sig)] := by
  have h1 := statusWrites_putFlag .idCrcOk idCrcOk s.status
  have h2 := statusWrites_append_putFlag h1 .sigOk sig rfl
  exact statusWrites_append_putFlag h2 .present (idCrcOk && sig) rfl

/-- A measurement frame writes its four verdict bits, and the two valid bits if both halves pass (42_frame R77). -/
theorem statusWrites_checkMeasurement (f : RawFrame) (s : State) :
    StatusWrites s.status (checkMeasurement f s).status
      ([(1, f.tHalf.passes), (2, f.rhHalf.passes), (3, f.tHalf.passes && f.rhHalf.passes),
        (4, !(f.tHalf.passes && f.rhHalf.passes))] ++
        if f.tHalf.passes && f.rhHalf.passes then [(8, true), (9, true)] else []) := by
  rcases checkMeasurement_cases f s with ⟨ht, hr, h⟩ | ⟨hrej, h⟩
  · rw [h, ht, hr]
    have hT := statusWrites_append_putFlag (statusWrites_setFrameVerdict true true s) .tValid true rfl
    exact statusWrites_append_putFlag hT .rhValid true rfl
  · rw [h, if_neg (Bool.eq_false_iff.mp hrej), List.append_nil]
    exact statusWrites_setFrameVerdict f.tHalf.passes f.rhHalf.passes s

/-- An identification frame writes its three verdict bits (42_frame R78). -/
theorem statusWrites_checkIdentification (f : IdFrame) (s : State) :
    StatusWrites s.status (checkIdentification f s).status
      [(5, f.half.passes), (6, sigOk f.idLsb), (7, f.half.passes && sigOk f.idLsb)] :=
  statusWrites_setIdVerdict f.half.passes (sigOk f.idLsb) s

theorem append_sixBytes_eq_or (hi : BitVec 16) (b0 b1 b2 b3 b4 b5 : Byte) :
    hi ++ b0 ++ b1 ++ b2 ++ b3 ++ b4 ++ b5 = hi.setWidth 64 <<< 48 |||
      (placeByte b0 40 ||| placeByte b1 32 ||| placeByte b2 24 ||| placeByte b3 16 ||| placeByte b4 8 |||
        placeByte b5 0) := by
  rw [← BitVec.setWidth_eq (x := hi ++ b0 ++ b1 ++ b2 ++ b3 ++ b4 ++ b5)]
  simp only [setWidth_append_eq_or, BitVec.shiftLeft_or_distrib, ← BitVec.shiftLeft_add, BitVec.or_assoc, placeByte,
    BitVec.shiftLeft_zero]

end Sys2Proof.Machine
end

section
/-!
SUPPORT. The two frame operations (42_frame R76 to R78, R80): what the checks compare, what an accepted frame leaves
in the results, and what a rejected one leaves alone.
-/

namespace Sys2Proof.Machine

/-! ### The checks -/

theorem passes_eq_decide (h : HalfFrame) : h.passes = decide (crc8 h.pair = h.crc) := rfl

/-- The signature is the second byte modulo 32 (30_encoding R53). -/
theorem sigOk_eq_decide (b : Byte) : sigOk b = decide (b.toNat % 32 = 7) := by
  have hlow : (b &&& idSigMask).toNat = b.toNat % 32 := Nat.and_two_pow_sub_one_eq_mod b.toNat 5
  have hiff : b &&& idSigMask = idSigValue ↔ b.toNat % 32 = 7 := by
    rw [← BitVec.toNat_inj, hlow]
    rfl
  exact decide_eq_decide.mpr hiff

/-- A half-frame that passes does not pass with one byte changed (42_frame R80). -/
theorem passes_eq_false_of_bytesChanged_eq_one {h g : HalfFrame} (hpass : h.passes = true)
    (hone : bytesChanged h g = 1) : g.passes = false := by
  obtain ⟨-, hdetects, -⟩ := oneChangedByteOfATripleIsDetected
  exact hdetects h g hpass hone

/-! ### The results of an accepted frame -/

/-- The temperature of a half-frame, from its two bytes (42_frame R77). -/
theorem toInt_s32_convT_code (h : HalfFrame) :
    (s32 (convT h.code)).toInt = (21875 * (h.msb.toNat * 256 + h.lsb.toNat) : Int) / 8192 - 45000 := by
  rw [toInt_s32_convT, convT_eq_ediv, HalfFrame.code, toNat_be16, Nat.cast_add, Nat.cast_mul]
  rfl

/-- The humidity of a half-frame, from its two bytes (42_frame R77). -/
theorem toInt_s32_convRh_code (h : HalfFrame) :
    (s32 (convRh h.code)).toInt = (12500 * (h.msb.toNat * 256 + h.lsb.toNat) : Int) / 8192 := by
  rw [toInt_s32_convRh, convRh_eq_ediv, HalfFrame.code, toNat_be16, Nat.cast_add, Nat.cast_mul]
  rfl

/-! ### The effect of a measurement frame, accepted or rejected -/

section
variable {f : RawFrame} (s : State)

theorem checkMeasurement_of_accepted (ht : f.tHalf.passes = true) (hr : f.rhHalf.passes = true) :
    checkMeasurement f s = writeFrameResults f (setFrameVerdict true true s) := by
  rw [checkMeasurement, ht, hr]
  rfl

theorem checkMeasurement_of_rejected (h : (f.tHalf.passes && f.rhHalf.passes) = false) :
    checkMeasurement f s = setFrameVerdict f.tHalf.passes f.rhHalf.passes s :=
  if_neg (Bool.eq_false_iff.mp h)

/-- BAD_DATA is the rejection. -/
theorem checkMeasurement_badData : (checkMeasurement f s).status.getLsbD 4 = !(f.tHalf.passes && f.rhHalf.passes) :=
  (checkMeasurement_bit f s 4).trans (setFrameVerdict_bit ..)

theorem checkMeasurement_tOk : (checkMeasurement f s).status.getLsbD 1 = f.tHalf.passes :=
  (checkMeasurement_bit f s 1).trans (setFrameVerdict_bit ..)

theorem checkMeasurement_rhOk : (checkMeasurement f s).status.getLsbD 2 = f.rhHalf.passes :=
  (checkMeasurement_bit f s 2).trans (setFrameVerdict_bit ..)

end

/-- Settles O43, by the two cases of a measurement frame. -/
theorem frmMeasChecksBothHalvesAndConvertsIfBothPass : Obligations.FrmMeasChecksBothHalvesAndConvertsIfBothPass := by
  refine ⟨fun f0 f1 f2 f3 f4 f5 => decode_of_eq_or .frmMeas (append_sixBytes_eq_or ..) (by decide) rfl, ?_,
    execWord_of_reservedField .frmMeas, by decide +kernel, by decide +kernel, ?_⟩
  · intro s f0 f1 f2 f3 f4 f5 tOk rhOk hT hRh
    obtain rfl := hT.trans (passes_eq_decide (RawFrame.mk f0 f1 f2 f3 f4 f5).tHalf).symm
    obtain rfl := hRh.trans (passes_eq_decide (RawFrame.mk f0 f1 f2 f3 f4 f5).rhHalf).symm
    refine ⟨_, exec_frmMeas s f0 f1 f2 f3 f4 f5, statusWrites_checkMeasurement _ s, fun ht hr => ?_, fun hrej => ?_⟩
    · rw [checkMeasurement_of_accepted s ht hr]
      exact ⟨toInt_s32_convT_code ⟨f0, f1, f2⟩, toInt_s32_convRh_code ⟨f3, f4, f5⟩, rfl⟩
    · rw [checkMeasurement_of_rejected s hrej]
      rfl
  · rw [exec_frmMeas, Host.Outcome.next.injEq]
    decide +kernel

/-- Settles O44. -/
theorem frmIdChecksCrcAndSignature : Obligations.FrmIdChecksCrcAndSignature := by
  refine ⟨fun i0 i1 c => decode_of_eq_or .frmId (append_threeBytes_eq_or _ i0 i1 c) (by decide) rfl, ?_,
    execWord_of_reservedField .frmId, ?_⟩
  · intro s i0 i1 c idc sig hc hsig
    obtain rfl := hc.trans (passes_eq_decide ⟨i0, i1, c⟩).symm
    obtain rfl := hsig.trans (sigOk_eq_decide i1).symm
    exact ⟨_, exec_frmId s i0 i1 c, statusWrites_checkIdentification _ s, rfl⟩
  · rw [exec_frmId, Host.Outcome.next.injEq]
    decide +kernel

/-- Settles O52: the half with the changed byte does not pass, so its bit is 0 and the frame is rejected. -/
theorem oneChangedByteOfAFrameIsDetected : Obligations.OneChangedByteOfAFrameIsDetected := by
  refine ⟨fun f g s ht hr => ⟨fun hone _ => ?_, fun _ hone => ?_⟩, fun f g s hpass hone => ?_⟩
  · have hbad := passes_eq_false_of_bytesChanged_eq_one ht hone
    refine ⟨checkMeasurement g s, exec_frmMeas .., ?_, (checkMeasurement_tOk s).trans hbad⟩
    rw [checkMeasurement_badData, hbad, Bool.false_and, Bool.not_false]
  · have hbad := passes_eq_false_of_bytesChanged_eq_one hr hone
    refine ⟨checkMeasurement g s, exec_frmMeas .., ?_, (checkMeasurement_rhOk s).trans hbad⟩
    rw [checkMeasurement_badData, hbad, Bool.and_false, Bool.not_false]
  · exact ⟨checkIdentification g s, exec_frmId .., (checkIdentification_bit g s 5).trans
      (passes_eq_false_of_bytesChanged_eq_one hpass hone)⟩

/-- Settles O53: BAD_DATA says that the frame was rejected, so only its verdict was written. -/
theorem rejectedFrameLeavesEarlierResults : Obligations.RejectedFrameLeavesEarlierResults := by
  intro f0 f1 f2 f3 f4 f5 s t h hbad
  cases eq_issue_of_exec h
  rw [issue_frmMeas, checkMeasurement_badData, Bool.not_eq_true'] at hbad
  rw [issue_frmMeas, checkMeasurement_of_rejected s hbad]
  exact ⟨rfl, rfl, setFrameVerdict_bit .., setFrameVerdict_bit .., (setFrameVerdict_bit ..).trans hbad⟩

end Sys2Proof.Machine
end

section
/-!
SUPPORT. CRC and the operations outside a CRC stream (42_frame R81, 70 R116), and the reading procedures of the driver
(60 R99, R100).
-/

namespace Sys2Proof.Machine

/-! ### The frame operations beside CRC -/

theorem checkMeasurement_writeCrc (f : RawFrame) (c : Byte) (s : State) :
    checkMeasurement f (writeCrc c s) = writeCrc c (checkMeasurement f s) := by
  cases h : f.tHalf.passes && f.rhHalf.passes with
  | true =>
    obtain ⟨ht, hr⟩ := (Bool.and_eq_true ..).mp h
    rw [checkMeasurement_of_accepted _ ht hr, checkMeasurement_of_accepted _ ht hr]
    rfl
  | false =>
    rw [checkMeasurement_of_rejected _ h, checkMeasurement_of_rejected _ h]
    rfl

/-- Settles O51. -/
theorem frameOperationsNeitherReadNorWriteCrc : Obligations.FrameOperationsNeitherReadNorWriteCrc := by
  intro i s c h
  cases i with
  | frmMeas f0 f1 f2 f3 f4 f5 =>
    exact ⟨_, exec_frmMeas .., checkMeasurement_crc .., congrArg _ (checkMeasurement_writeCrc _ c s)⟩
  | frmId i0 i1 k => exact ⟨_, exec_frmId .., rfl, rfl⟩
  | _ => simp [Instr.opcode] at h

/-! ### CRC streams -/

/-- Two states that a CRC stream cannot tell apart: CRC and CRC_OK agree. -/
structure SameStream (s u : State) : Prop where
  crc : s.crc = u.crc
  crcOk : s.status.getLsbD 0 = u.status.getLsbD 0

/-- An operation outside the stream is among the writers of neither CRC nor CRC_OK (10_state R14, R15). -/
theorem notMem_streamWriters {i : Instr} (h : touchesStream i = false) :
    i.opcode ∉ [.crcInit, .crcByte, .crcPair, .crcVfy] ∧ i.opcode ∉ statusWriters 0 := by
  cases i with
  | crcInit | crcByte _ | crcChk _ | crcPair _ _ | crcVfy _ _ _ => cases h
  | _ => simp [Instr.opcode, statusWriters]

/-- So it leaves the stream alone. -/
theorem sameStream_issue_of_not_touches {i : Instr} (h : touchesStream i = false) (s : State) :
    SameStream (issue i s) s :=
  have ⟨hcrc, hcrcOk⟩ := notMem_streamWriters h
  ⟨issue_crc_of_not_writer hcrc s, issue_bit_of_not_writer hcrcOk s⟩

namespace SameStream

variable {s u : State} (h : SameStream s u)
include h

theorem writeCrc_congr (v : Byte) : SameStream (writeCrc v s) (writeCrc v u) := ⟨rfl, h.crcOk⟩

theorem setCrcOk_congr (b : Bool) : SameStream (setFlag .crcOk b s) (setFlag .crcOk b u) :=
  ⟨h.crc, (getFlag_putFlag_same .crcOk b s.status).trans (getFlag_putFlag_same .crcOk b u.status).symm⟩

theorem of_not_touches {i : Instr} (hi : touchesStream i = false) : SameStream (issue i s) u :=
  have hsame := sameStream_issue_of_not_touches hi s
  ⟨hsame.crc.trans h.crc, hsame.crcOk.trans h.crcOk⟩

/-- An operation of the stream reads only CRC, so it keeps the agreement. -/
theorem issue_congr {i : Instr} (hi : touchesStream i = true) : SameStream (issue i s) (issue i u) := by
  cases i with
  | crcInit => exact h.writeCrc_congr _
  | crcByte b =>
    rw [issue_crcByte, issue_crcByte, h.crc]
    exact h.writeCrc_congr _
  | crcChk c =>
    rw [issue_crcChk, issue_crcChk, h.crc]
    exact h.setCrcOk_congr _
  | crcPair d0 d1 => exact h.writeCrc_congr _
  | crcVfy d0 d1 c => exact (h.writeCrc_congr _).setCrcOk_congr _
  | nop | cvtT _ | cvtRh _ | frmMeas _ _ _ _ _ _ | frmId _ _ _ => cases hi

/-- A sequence, and the sequence without the operations outside the stream, keep the agreement. -/
theorem execAll_filter (is : List Instr) : ∃ t v, execAll is s = .next t ∧
    execAll (is.filter touchesStream) u = .next v ∧ SameStream t v := by
  induction is generalizing s u with
  | nil => exact ⟨s, u, rfl, rfl, h⟩
  | cons i is ih =>
    cases hi : touchesStream i with
    | true =>
      rw [List.filter_cons_of_pos hi, execAll_cons, execAll_cons]
      exact ih (h.issue_congr hi)
    | false =>
      rw [List.filter_cons_of_neg (Bool.eq_false_iff.mp hi), execAll_cons]
      exact ih (h.of_not_touches hi)

end SameStream

/-- Settles O50, by the two-state relation `SameStream`. -/
theorem otherOperationsDoNotDisturbACrcStream : Obligations.OtherOperationsDoNotDisturbACrcStream := by
  intro is s
  obtain ⟨t, u, ht, hu, hsame⟩ := SameStream.execAll_filter ⟨rfl, rfl⟩ is
  exact ⟨t, u, ht, hu, hsame.crc, hsame.crcOk⟩

/-! ### The reading procedures -/

/-- Once the command is written, a blocking measurement ends as `read_async_result` does, in either mode. -/
theorem readSync_of_written {ε : Type} (cmd : SensorCommand) (answer : Except ε RawFrame) (s : State) :
    (readSync cmd (.ok ()) answer s).result = (readAsyncResult answer s).result ∧
    (readSync cmd (.ok ()) answer s).block = (readAsyncResult answer s).block := ⟨rfl, rfl⟩

/-- Settles O55: all three procedures end in `read_async_result`. -/
theorem measurementModeDoesNotMatter : Obligations.MeasurementModeDoesNotMatter := by
  intro ε f s
  obtain ⟨hpmResult, hpmBlock⟩ := readSync_of_written .hpmWait (.ok f : Except ε RawFrame) s
  obtain ⟨lpmResult, lpmBlock⟩ := readSync_of_written .lpmWait (.ok f : Except ε RawFrame) s
  exact ⟨lpmResult.trans hpmResult.symm, hpmResult.symm, lpmBlock.trans hpmBlock.symm, hpmBlock.symm⟩

end Sys2Proof.Machine
end

section
/-!
SUPPORT. NOP (43_system R82): an operation has its encoding as its only word, and the encoding of NOP is zero.
-/

namespace Sys2Proof

/-- A word decodes to an operation exactly if it is the operation's encoding (30_encoding R45, R49). -/
theorem decode_eq_ok_iff_eq_encode {w : OpWord} {i : Instr} : decode w = .ok i ↔ w = encode i := by
  constructor
  · intro h
    exact (encodeOfDecodeIsTheWord w i h).symm
  · rintro rfl
    exact decodeOfEncodeIsTheOperation i

theorem encode_nop : encode .nop = 0x0000000000000000#64 := by decide

end Sys2Proof

namespace Sys2Proof.Machine

/-- Settles O35: the only word of NOP is its encoding, and NOP has no operands, so op[55:0] is all reserved. -/
theorem nopChangesNothing : Obligations.NopChangesNothing := by
  refine fun s => ⟨exec_nop s, fun w => ⟨?_, execWord_of_reservedField .nop s w⟩⟩
  rw [decode_eq_ok_iff_eq_encode, encode_nop]

end Sys2Proof.Machine
end

section
/-!
SUPPORT. What a sequence of words records of the illegal ones among them (60 R88, R91), and the idle block (60 R108).
-/

namespace Sys2Proof.Machine

/-! ### The sticky bits -/

theorem isIllegal_of_ok {w : OpWord} {i : Instr} (h : decode w = .ok i) (c : IllegalCause) :
    isIllegal c w = false := by
  simp only [isIllegal, h]

theorem isIllegal_of_error {w : OpWord} {d : IllegalCause} (h : decode w = .error d) (c : IllegalCause) :
    isIllegal c w = decide (d = c) := by
  simp only [isIllegal, h]

theorem causeFlag_bit_inj {c d : IllegalCause} : (causeFlag c).bit = (causeFlag d).bit ↔ d = c := by
  cases c <;> cases d <;> decide

theorem causeFlag_bit_ge (c : IllegalCause) : 10 ≤ (causeFlag c).bit := by cases c <;> decide

/-- An operation keeps the sticky bits, and an illegal word sets that of its cause alone (60 R88). -/
theorem wordEffect_stickyBit (w : OpWord) (s : State) (c : IllegalCause) :
    (wordEffect w s).status.getLsbD (causeFlag c).bit =
      (s.status.getLsbD (causeFlag c).bit || isIllegal c w) := by
  cases h : decode w with
  | ok i => rw [wordEffect_of_ok h, isIllegal_of_ok h, Bool.or_false, issue_bit_of_ge (causeFlag_bit_ge c)]
  | error d =>
    rw [wordEffect_of_error h, isIllegal_of_error h, takeIllegalOp_bit]
    by_cases hd : d = c <;> simp [causeFlag_bit_inj, hd]

/-- Over a sequence a sticky bit gathers the illegal words of its cause. -/
theorem execWords_stickyBits (ws : List OpWord) (s : State) : ∃ t, execWords ws s = .next t ∧
    ∀ c, t.status.getLsbD (causeFlag c).bit = (s.status.getLsbD (causeFlag c).bit || ws.any (isIllegal c)) := by
  induction ws generalizing s with
  | nil => exact ⟨s, rfl, fun _ => (Bool.or_false _).symm⟩
  | cons w ws ih =>
    obtain ⟨t, hrun, hsticky⟩ := ih (wordEffect w s)
    refine ⟨t, (execWords_cons w ws s).trans hrun, fun c => ?_⟩
    rw [hsticky, wordEffect_stickyBit, List.any_cons, Bool.or_assoc]

/-- Settles O19: bits 10 and 11 are the sticky bits of the two causes. -/
theorem stickyBitsRecordWhetherAWordWasIllegal : Obligations.StickyBitsRecordWhetherAWordWasIllegal := by
  intro ws s
  obtain ⟨t, hrun, hsticky⟩ := execWords_stickyBits ws s
  exact ⟨t, hrun, hsticky .illOpc, hsticky .illRsv⟩

/-! ### The idle block -/

/-- Settles O15: the two idle cases of a step. -/
theorem idleBlockKeepsItsState : Obligations.IdleBlockKeepsItsState :=
  fun _ _ _ hready => ⟨step_of_silent hready, step_of_noOffer hready⟩

end Sys2Proof.Machine
end

section
/-!
SUPPORT. The driver's procedures around the block (60 R99 to R102): what each asks of the bus and what it takes from a
frame.
-/

namespace Sys2Proof.Machine

/-! ### The writes of the sensor commands (30_encoding R51, R52) -/

theorem writeCommand_hpmWait : writeCommand .hpmWait = .write 0x70#7 [0x7C#8, 0xA2#8] false := by decide
theorem writeCommand_hpmNoWait : writeCommand .hpmNoWait = .write 0x70#7 [0x78#8, 0x66#8] false := by decide
theorem writeCommand_lpmWait : writeCommand .lpmWait = .write 0x70#7 [0x64#8, 0x58#8] false := by decide
theorem writeCommand_lpmNoWait : writeCommand .lpmNoWait = .write 0x70#7 [0x60#8, 0x9C#8] false := by decide
theorem writeCommand_softReset : writeCommand .softReset = .write 0x70#7 [0x80#8, 0x5D#8] true := by decide
theorem writeCommand_readId : writeCommand .readId = .write 0x70#7 [0xEF#8, 0xC8#8] false := by decide

/-- Settles O57. -/
theorem startAndSoftResetIssueNoOperation : Obligations.StartAndSoftResetIssueNoOperation := by
  intro ε written s
  rw [readHpmAsync, readLpmAsync, startAsync, startAsync, resetSensor, writeCommand_hpmNoWait, writeCommand_lpmNoWait,
    writeCommand_softReset]
  exact ⟨rfl, rfl, rfl⟩

/-! ### The blocking measurement -/

section
variable {ε : Type} (cmd : SensorCommand) (answer : Except ε RawFrame) (s : State)

/-- The mode of a blocking measurement shows on the bus alone (60 R99). -/
theorem readSync_mode_irrelevant (cmd' : SensorCommand) (written : Except ε Unit) :
    (readSync cmd written answer s).result = (readSync cmd' written answer s).result ∧
    (readSync cmd written answer s).issued = (readSync cmd' written answer s).issued ∧
    (readSync cmd written answer s).block = (readSync cmd' written answer s).block := by
  cases written <;> exact ⟨rfl, rfl, rfl⟩

theorem readSync_of_failedWrite (e : ε) :
    readSync cmd (.error e) answer s = ⟨[writeCommand cmd], [], s, .transportError e⟩ := rfl

/-- A failed read has been asked for as a good one is. -/
theorem readSync_bus_of_written :
    (readSync cmd (.ok ()) answer s).bus = [writeCommand cmd, .delay Config.convWait, .read 0x70#7 6] := by
  cases answer <;> rfl

theorem readSync_of_failedRead (e : ε) :
    readSync cmd (.ok ()) (.error e : Except ε RawFrame) s =
      ⟨[writeCommand cmd, .delay Config.convWait, .read 0x70#7 6], [], s, .transportError e⟩ := rfl

theorem readSync_of_frame (f : RawFrame) :
    readSync cmd (.ok ()) (.ok f : Except ε RawFrame) s =
      ⟨[writeCommand cmd, .delay Config.convWait, .read 0x70#7 6], [f.operation], issue f.operation s,
        measurementOf ε (issue f.operation s)⟩ := rfl

end

/-- Both halves pass exactly if both checksums are right (42_frame R76). -/
theorem bothHalvesPass_iff (f : RawFrame) : (f.tHalf.passes && f.rhHalf.passes) = true ↔
    crc8 [f.tMsb, f.tLsb] = f.tCrc ∧ crc8 [f.rhMsb, f.rhLsb] = f.rhCrc := by
  rw [Bool.and_eq_true, passes_eq_decide, passes_eq_decide, decide_eq_true_iff, decide_eq_true_iff]
  rfl

/-- An accepted frame clears BAD_DATA, so the driver takes the two results. -/
theorem measurementOf_of_accepted (ε : Type) {f : RawFrame} (h : (f.tHalf.passes && f.rhHalf.passes) = true)
    (s : State) : measurementOf ε (issue f.operation s) =
      .ok (s32 (convT f.tHalf.code)) (s32 (convRh f.rhHalf.code)) := by
  have hgood : (checkMeasurement f s).flag .badData = false := by
    rw [State.flag, getFlag, Flag.bit, checkMeasurement_badData, h, Bool.not_true]
  obtain ⟨ht, hr⟩ := (Bool.and_eq_true ..).mp h
  rw [RawFrame.operation, issue_frmMeas, measurementOf, hgood, checkMeasurement_of_accepted s ht hr]
  rfl

theorem measurementOf_of_rejected (ε : Type) {f : RawFrame} (h : (f.tHalf.passes && f.rhHalf.passes) = false)
    (s : State) : measurementOf ε (issue f.operation s) = .badData := by
  have hbad : (checkMeasurement f s).flag .badData = true := by
    rw [State.flag, getFlag, Flag.bit, checkMeasurement_badData, h, Bool.not_false]
  exact if_pos hbad

/-- Settles O54: the mode shows on the bus alone; in either, what is returned is decided by the write, the read and the
frame's checks, in this order. -/
theorem blockingMeasurementReturnsTheFramesResult : Obligations.BlockingMeasurementReturnsTheFramesResult := by
  intro ε e f s answer written
  obtain ⟨hresult, hissued, hblock⟩ := readSync_mode_irrelevant .lpmWait answer s .hpmWait written
  simp only [readHpmSync, readLpmSync, readSync_of_failedWrite, readSync_of_failedRead, readSync_of_frame,
    readSync_bus_of_written, writeCommand_hpmWait, writeCommand_lpmWait, true_and]
  refine ⟨hresult, hissued, hblock, fun hgood => ?_, fun hbad => ?_⟩
  · exact ⟨_, _, measurementOf_of_accepted ε ((bothHalvesPass_iff f).mpr hgood) s, toInt_s32_convT_code f.tHalf,
      toInt_s32_convRh_code f.rhHalf⟩
  · exact measurementOf_of_rejected ε (Bool.eq_false_iff.mpr (mt (bothHalvesPass_iff f).mp hbad)) s

/-! ### The presence probe -/

/-- PRESENT after FRM.ID is the verdict on the checksum and the signature (42_frame R78). -/
theorem issue_idFrame_present (f : IdFrame) (s : State) : (issue f.operation s).flag .present =
    decide (crc8 [f.idMsb, f.idLsb] = f.idCrc ∧ f.idLsb.toNat % 32 = 7) := by
  have hbit : (issue f.operation s).flag .present = (f.half.passes && sigOk f.idLsb) := checkIdentification_bit f s 7
  rw [hbit, passes_eq_decide, sigOk_eq_decide, Bool.decide_and]
  rfl

/-- Settles O56. -/
theorem probeAnswersTheFramesVerdict : Obligations.ProbeAnswersTheFramesVerdict := by
  intro ε e f s written
  rw [probe, probe, writeCommand_readId]
  exact ⟨rfl, rfl, rfl, rfl, rfl, rfl, issue_idFrame_present f s⟩

end Sys2Proof.Machine
end

section
/-!
SUPPORT. The host's two moves that replace the block's state whole: `rst` and a power-up (70 R109, R111, R112).
-/

namespace Sys2Proof.Machine

/-- After the reset step both valid bits are 0 and nothing is in flight, so no reading shows a result (10_state R20). -/
theorem resetBlock_results_unwritten (s : State) (n : Nat) :
    readTemp n (resetBlock s) = Config.unwrittenTemp n ∧ readRh n (resetBlock s) = Config.unwrittenRh n ∧
    claimTemp n (resetBlock s) = .error .unwrittenTemp ∧ claimRh n (resetBlock s) = .error .unwrittenRh := by
  obtain ⟨-, -, hTemp, hRh, hClaimTemp, hClaimRh⟩ := portsShowTheRegisters (resetBlock s) n rfl
  have hclear (i : Nat) : (resetBlock s).status.getLsbD i = false := BitVec.getLsbD_zero
  simp only [hclear, Bool.false_eq_true, if_false] at hTemp hRh hClaimTemp hClaimRh
  exact ⟨hTemp, hRh, hClaimTemp, hClaimRh⟩

/-- Settles O10: a move with `rst` is the reset step, which keeps of the earlier state the host's later moves alone. -/
theorem resetWinsOverAnyOperation : Obligations.ResetWinsOverAnyOperation :=
  fun _ _ _ _ hrst => ⟨_, step_of_rst hrst, rfl, rfl, rfl, rfl, resetBlock_results_unwritten _⟩

/-- Settles O12: the mask of the named bits is that of the statement, 0x0FFF. -/
theorem powerUpLeavesTheDrawnValues : Obligations.PowerUpLeavesTheDrawnValues :=
  fun _ _ _ _ _ _ hpower => step_of_powerUp hpower

end Sys2Proof.Machine
end
